-- ==== Sys2Proof/Config.lean ====
section
/-! DEFINITION. The parameters of the core: the fixed ones of rules R6 and R7 (00_scope.md), the one table the spec leaves
OPEN (ALPHA_Q32, 92_eei_decisions.md), and the model's one free value. The widths REG_W, NBANK, CMD_W,
RSP_W and CNT_W are those of the types in Word.lean. None of this is state (R31). -/

namespace Sys2Proof

/-- What the spec leaves open for an implementation to supply: the bias-correction ROM (R123: "a model should hold the
table as a configuration field"), fifteen 32-bit words, the first for precision 4. -/
structure Config where
  alphaQ32 : List (BitVec 32)
deriving DecidableEq, Repr

namespace Config

/-- HASH_W (R6). -/
@[simp] abbrev hashW : Nat := 32
/-- B_MIN (R6, hard by R87). -/
@[simp] abbrev bMin : Nat := 4
/-- B_MAX (R6, hard by R87). -/
@[simp] abbrev bMax : Nat := 18
/-- Numerator of SMALL_FACTOR = 5/2 (R6), the factor of R126. -/
@[simp] abbrev smallNum : Nat := 5
/-- Divisor of LARGE_THRESHOLD = 2^32 / 30 (R6), the factor of R127. -/
@[simp] abbrev largeDiv : Nat := 30
/-- CNT_SAT (R7): the VALUE of a saturated estimate. -/
@[simp] abbrev cntSat : Nat := 2 ^ 64 - 1
/-- ZF (R7): fraction bits of the Z accumulator. -/
@[simp] abbrev zf : Nat := 32
/-- EF (R7): fraction bits of estimates. -/
@[simp] abbrev ef : Nat := 16
/-- F (R7): fraction bits of logarithms and of ln 2. -/
@[simp] abbrev f : Nat := 48
/-- LN2_Q48 (R7, R130). PRESUMED by the spec itself from general knowledge (93_implementation_defined.md G2), see
assumption 4. -/
@[simp] abbrev ln2Q48 : Nat := 0xB17217F7D1CF

/-- This hardware's instance: the table of rule R123. PRESUMED by the spec itself from general knowledge
(93_implementation_defined.md G1), see assumption 4. -/
def hllc1 : Config where
  alphaQ32 :=
    [0xAC49BA5E, 0xB26E978D, 0xB5810625, 0xB71BF790, 0xB7E0B672] ++
    [0xB843B4C4, 0xB8755BF0, 0xB88E3991, 0xB89AAAE5, 0xB8A0E430] ++
    [0xB8A400FE, 0xB8A58F6F, 0xB8A656AA, 0xB8A6BA48, 0xB8A6EC17]

/-- DESIGN CHOICE (assumption 9): what the fifteen-word ROM answers for a precision it has no word for. The spec gives no
value there and no reachable state asks for one (R22, R25), so it is a free value. -/
opaque alphaUnlisted : Nat → BitVec 32

end Config

end Sys2Proof
end

