-- ==== Sys2Proof/Word.lean ====
section
/-! DEFINITION. The words of the core: command words, response words, immediates, register cells, precisions and bank
numbers, each at the width the spec gives it. -/

namespace Sys2Proof

/-- A command word, CMD_W bits (R7, R60). -/
abbrev CommandWord := BitVec 64

/-- A response word, RSP_W bits (R7, R67). -/
abbrev ResponseWord := BitVec 72

/-- The immediate: a hash of HASH_W bits or a requested register count (R6, R66). -/
abbrev Imm := BitVec 32

/-- The VALUE field of a response, CNT_W bits (R7, R68, R70). -/
abbrev Value := BitVec 64

/-- One estimator register, REG_W bits (R6, R23). -/
abbrev RegCell := BitVec 6

/-- The B field of a configuration register (R22). -/
abbrev Precision := BitVec 5

/-- A bank number: one of NBANK banks, all four values of a bank field naming one (R7, R66). -/
abbrev BankId := Fin 4

end Sys2Proof
end

