-- ==== Sys2Proof/Syntax.lean ====
section
/-! DEFINITION. The five commands of HLLC-1 (R2, R62, R75): one constructor per row of spec/opcode_table.json. -/

namespace Sys2Proof

/-- A command, with the operands rule R63 gives it and no others. -/
inductive Instr where
  /-- `CREATE bD, m` (R88). -/
  | create (d : BankId) (m : Imm)
  /-- `ADD bD, hash` (R104). -/
  | add (d : BankId) (h : Imm)
  /-- `COUNT bA` (R142). -/
  | count (a : BankId)
  /-- `MERGE bD, bA, bB` (R158). -/
  | merge (d a b : BankId)
  /-- `INTERSECT bA, bB` (R168). -/
  | intersect (a b : BankId)
deriving DecidableEq, Repr

end Sys2Proof
end

