-- ==== Sys2Proof/WellFormed.lean ====
section
/-! DEFINITION. Which operands a command may carry (R66, R75): a bank written b0 to b3, a number below 2^32. The operand
types of `Instr` already hold these bounds, so every `Instr` passes; the two checks refuse the operand numbers that are no
operand (Tests/Slice0.lean). A register count that CREATE refuses is still a well-formed operand: "legality is a
property of the word, the register-count check a property of the operand" (95_test_vectors.md section 3). -/

namespace Sys2Proof

/-- A bank operand is one of b0 .. b3 (R66, R75). -/
def bankNumberOk (k : Nat) : Bool := k < 4

/-- A number operand is below 2^32 (R66, R75). -/
def immediateOk (n : Nat) : Bool := n < 2 ^ Config.hashW

/-- Every operand of the command is one its field can carry. -/
def Instr.wellFormed : Instr → Bool
  | .create d m => bankNumberOk d.val && immediateOk m.toNat
  | .add d h => bankNumberOk d.val && immediateOk h.toNat
  | .count a => bankNumberOk a.val
  | .merge d a b => bankNumberOk d.val && bankNumberOk a.val && bankNumberOk b.val
  | .intersect a b => bankNumberOk a.val && bankNumberOk b.val

end Sys2Proof
end

