-- ==== Sys2Proof/Decode.lean ====
section
/-! DEFINITION. Format C: the fields of a command word, its legality, the decoder (total, rejecting by name) and the
encoder, all from 30_encoding.md rules R61 to R66, R75 and R77. -/

namespace Sys2Proof

/-- OP, bits 63:60 (R61). -/
def opField (w : CommandWord) : BitVec 4 := w.extractLsb' 60 4
/-- RD, bits 59:58 (R61). -/
def rdField (w : CommandWord) : BitVec 2 := w.extractLsb' 58 2
/-- RA, bits 57:56 (R61). -/
def raField (w : CommandWord) : BitVec 2 := w.extractLsb' 56 2
/-- RB, bits 55:54 (R61). -/
def rbField (w : CommandWord) : BitVec 2 := w.extractLsb' 54 2
/-- RSV, bits 53:32 (R61). -/
def rsvField (w : CommandWord) : BitVec 22 := w.extractLsb' 32 22
/-- IMM, bits 31:0 (R61). -/
def immField (w : CommandWord) : Imm := w.extractLsb' 0 32

/-- A bank field used as it stands, a 2-bit unsigned bank number (R66). -/
def bankOf (k : BitVec 2) : BankId := k.toFin

/-- `LEGAL(w)` in the words of rule R64. -/
def legal (w : CommandWord) : Bool :=
  rsvField w == 0 &&
    ((opField w == 1 && raField w == 0 && rbField w == 0) ||
     (opField w == 2 && raField w == 0 && rbField w == 0) ||
     (opField w == 3 && rdField w == 0 && rbField w == 0 && immField w == 0) ||
     (opField w == 4 && immField w == 0) ||
     (opField w == 5 && rdField w == 0 && immField w == 0))

/-- Why a word is no command; every reason raises IllegalCommand (R65, R180). -/
inductive IllegalWord where
  /-- OP is 0 or 6 to 15. -/
  | unassignedOpcode
  /-- RSV is not zero. -/
  | reservedFieldNonzero
  /-- A field the command does not use is not zero. -/
  | unusedFieldNonzero
deriving DecidableEq, Repr

/-- A command whose unused fields are all zero, or the reason why it is none (R63, R65). -/
def accept (unusedZero : Bool) (i : Instr) : Except IllegalWord Instr :=
  if unusedZero then .ok i else .error .unusedFieldNonzero

/-- The decoder (R62, R63, R65, R77): total on 64-bit words. -/
def decode (w : CommandWord) : Except IllegalWord Instr :=
  let rd := bankOf (rdField w)
  let ra := bankOf (raField w)
  let rb := bankOf (rbField w)
  let imm := immField w
  if rsvField w != 0 then .error .reservedFieldNonzero
  else match (opField w).toNat with
    | 1 => accept (raField w == 0 && rbField w == 0) (.create rd imm)
    | 2 => accept (raField w == 0 && rbField w == 0) (.add rd imm)
    | 3 => accept (rdField w == 0 && rbField w == 0 && imm == 0) (.count ra)
    | 4 => accept (imm == 0) (.merge rd ra rb)
    | 5 => accept (rdField w == 0 && imm == 0) (.intersect ra rb)
    | _ => .error .unassignedOpcode

/-- A bank number in its 2-bit field (R61, R66). -/
def bankBits (k : BankId) : BitVec 2 := BitVec.ofFin k

/-- The six fields in their places, RSV zero (R61); as a number it is `OP << 60 | RD << 58 | RA << 56 | RB << 54 | IMM`
(R75). -/
def assemble (op : BitVec 4) (rd ra rb : BitVec 2) (imm : Imm) : CommandWord :=
  op ++ rd ++ ra ++ rb ++ (0 : BitVec 22) ++ imm

/-- The encoder: every operand the command does not have is zero (R62, R63, R75). -/
def encode : Instr → CommandWord
  | .create d m => assemble 1 (bankBits d) 0 0 m
  | .add d h => assemble 2 (bankBits d) 0 0 h
  | .count a => assemble 3 0 (bankBits a) 0 0
  | .merge d a b => assemble 4 (bankBits d) (bankBits a) (bankBits b) 0
  | .intersect a b => assemble 5 0 (bankBits a) (bankBits b) 0

/-- The command word whose bits, numbered as spec/opcode_table.json numbers them, are the low `nbits` bits of `w`. The
command word is one whole parallel value (R46, R60), so table bit i is word bit i and no byte order enters. -/
def tableWord (nbits w : Nat) : CommandWord := BitVec.ofNat 64 (w % 2 ^ nbits)

/-- The instruction the decoder reads from a word given as spec/opcode_table.json gives it. -/
def decodeTableWord (nbits w : Nat) : Option Instr :=
  match decode (tableWord nbits w) with
  | .ok i => some i
  | .error _ => none

end Sys2Proof
end

