-- ==== Sys2Proof/Machine/State.lean ====
section
/-! DEFINITION. The state of the core as 10_state.md gives it (R20 to R24, R30), what the host drives on the pins, and the
state after reset (R32, R200). Every field is plain data. -/

namespace Sys2Proof.Machine

/-- The content of a valid bank (R21): its precision `b` (R22) and its registers, of which exactly `2^b` exist (R23, R24). -/
structure Estimator where
  b    : Precision
  regs : List RegCell
deriving DecidableEq, Repr

/-- The interface phase (R30, R74). -/
inductive Phase where
  | idle
  | busy
  | resp
deriving DecidableEq, Repr

/-- The input ports as sampled at one rising clock edge (R73). -/
structure PortIn where
  rst      : Bool
  cmdValid : Bool
  cmdData  : CommandWord
  rspReady : Bool
deriving DecidableEq, Repr

/-- The four errors of rule R176. They are responses, not stops: the core goes on (R183). -/
inductive CommandError where
  /-- STATUS 1 (R177). -/
  | invalidRegisterCount
  /-- STATUS 2 (R178). -/
  | sizeMismatch
  /-- STATUS 3 (R179). -/
  | notCreated
  /-- STATUS 4 (R180). -/
  | illegalCommand
deriving DecidableEq, Repr

/-- The machine between two rising clock edges. -/
structure State where
  /-- `BANK_CFG[k]` and `REG[k]`: `none` is VALID = 0, a bank with no B and no cells at all (R21, R22, R24). -/
  banks    : Vector (Option Estimator) 4
  /-- `PHASE` (R30). -/
  phase    : Phase
  /-- `CMD_LATCH` (R30), meaningful while BUSY. -/
  cmdLatch : CommandWord
  /-- `RSP_LATCH` (R30), meaningful while RESP. -/
  rspLatch : ResponseWord
  /-- The model's own: the further edges the running command stays in BUSY (R74, R214; assumption 5). -/
  busyLeft : Nat
  /-- The model's own: the environment's `BUSY_LEN` for the commands still to be accepted, 0 once the list is used up
  (R214; assumption 5). -/
  busyPlan : List Nat
  /-- The model's own: what the host drives at the coming edges, nothing asserted once the list is used up (R210;
  assumption 6). -/
  edges    : List PortIn
deriving DecidableEq, Repr

/-- Nothing stops this core: each accepted word has a response and every edge a next state (R14, R65, R74, R183). No
constructor, so no step can fault. -/
inductive Fault
deriving DecidableEq, Repr

/-- Why a step has no meaning. -/
inductive Refusal where
  /-- Raised by `exec` for an instruction whose arm has no meaning yet; no arm of this model raises it. Safe. -/
  | notModelled (mnemonic : String)
deriving DecidableEq, Repr

/-- The state after reset (R32, R200): four invalid banks, IDLE. The latches hold no value there in the spec; 0 is a
DESIGN CHOICE (assumption 1). -/
def State.reset : State where
  banks := Vector.replicate 4 none
  phase := .idle
  cmdLatch := 0
  rspLatch := 0
  busyLeft := 0
  busyPlan := []
  edges := []

end Sys2Proof.Machine
end

