-- ==== Sys2Proof/Machine/Flags.lean ====
section
/-! DEFINITION. The status and the SAT flag, which exist in the response word only (R29): the word's layout (R68), the
status codes (R69) and the words of the two outcomes (R13, R70 to R72). -/

namespace Sys2Proof.Machine

/-- STATUS of a success (R69). -/
def statusOk : BitVec 4 := 0

/-- STATUS of an error (R69, R176). -/
def CommandError.code : CommandError → BitVec 4
  | .invalidRegisterCount => 1
  | .sizeMismatch => 2
  | .notCreated => 3
  | .illegalCommand => 4

/-- The layout of a response: STATUS, three zeros, SAT, VALUE (R68). -/
def responseWord (status : BitVec 4) (sat : Bool) (value : Value) : ResponseWord :=
  status ++ (0 : BitVec 3) ++ BitVec.ofBool sat ++ value

/-- The response of `respond(OK, sat, value)` (R13). -/
def okWord (sat : Bool) (value : Value) : ResponseWord := responseWord statusOk sat value

/-- The response of `raise e`: SAT and VALUE are 0 (R13, R176). -/
def errorWord (e : CommandError) : ResponseWord := responseWord e.code false 0

/-- STATUS, bits 71:68 (R68). -/
def rspStatus (r : ResponseWord) : BitVec 4 := r.extractLsb' 68 4
/-- Bits 67:65, always 0 (R68). -/
def rspZeros (r : ResponseWord) : BitVec 3 := r.extractLsb' 65 3
/-- SAT, bit 64 (R68). -/
def rspSat (r : ResponseWord) : BitVec 1 := r.extractLsb' 64 1
/-- VALUE, bits 63:0 (R68). -/
def rspValue (r : ResponseWord) : Value := r.extractLsb' 0 64

/-- SAT of an intersection: the OR of the three estimates' flags (R71, R167). -/
def satAny (sa sb su : Bool) : Bool := sa || sb || su

end Sys2Proof.Machine
end

