-- ==== Sys2Proof/Machine/Operands.lean ====
section
/-! DEFINITION. Operand units: the functions on naturals of R11, the register count check of R87, and ADD's index decoder,
leading-zero counter, rank and max-tracker (R95 to R102). -/

namespace Sys2Proof.Machine

/-- `msb(n)` for n >= 1: the e with 2^e <= n < 2^(e+1) (R11). -/
def msb (n : Nat) : Nat := n.log2

/-- `clz_W(v)`: leading zeros of v within W bits, W for v = 0 (R11, R98). -/
def clz (width v : Nat) : Nat := if v = 0 then width else width - 1 - msb v

/-- `ispow2(n)` (R11). -/
def ispow2 (n : Nat) : Bool := n != 0 && (n &&& (n - 1)) == 0

/-- `VALIDM(m)` (R87): the fifteen legal register counts. -/
def validM (m : Imm) : Bool :=
  ispow2 m.toNat && decide (2 ^ Config.bMin ≤ m.toNat) && decide (m.toNat ≤ 2 ^ Config.bMax)

/-- `W(b)`, the width of the residual (R8). -/
def residWidth (b : Nat) : Nat := Config.hashW - b

/-- `RMAX(b)`, the greatest rank (R8). -/
def rankMax (b : Nat) : Nat := Config.hashW - b + 1

/-- `INDEX(h, b)`, the register index decoder (R96; the effective address of ADD, R43). -/
def hashIndex (h : Imm) (b : Nat) : Nat := h.toNat >>> residWidth b

/-- `RESID(h, b)` (R97). -/
def resid (h : Imm) (b : Nat) : Nat := h.toNat % 2 ^ residWidth b

/-- `RANK(h, b)` (R100). -/
def rank (h : Imm) (b : Nat) : Nat := 1 + clz (residWidth b) (resid h b)

/-- The greater of two cells as unsigned 6-bit numbers (R102, R156); the first is kept unless the second exceeds it. -/
def cellMax (x y : RegCell) : RegCell := if x.toNat < y.toNat then y else x

/-- The cells of two equal-sized arrays, maximum by maximum at equal index (R156). -/
def unionCells (xs ys : List RegCell) : List RegCell := List.zipWith cellMax xs ys

end Sys2Proof.Machine
end

