-- ==== Sys2Proof/Machine/Ops.lean ====
section
/-! DEFINITION. The named operations over the state: access to the register space (R12, R40, R41), the two ways a command
ends (R13) with `raise` as the one shared error entry (R183; there is no return from it, R184), and the checks that
several commands share (R178, R179, R182). -/

namespace Sys2Proof.Machine

/-- What the commands answer with. -/
abbrev Result := Host.Outcome State Fault Refusal

/-- The estimator in bank k, if `cfg[k].valid = 1` (R21). -/
def bank (s : State) (k : BankId) : Option Estimator := s.banks[k]

/-- `cfg[k].valid` (R12). -/
def valid (s : State) (k : BankId) : Bool := (bank s k).isSome

/-- `cfg[k].b`, which exists only in a valid bank (R12, R24). -/
def prec (s : State) (k : BankId) : Option Nat := (bank s k).map fun e => e.b.toNat

/-- `x[k][i]`, which exists only in a valid bank and for `i < 2^b` (R12, R24, R41). -/
def cell (s : State) (k : BankId) (i : Nat) : Option RegCell := (bank s k).bind fun e => e.regs[i]?

/-- Bank k now holds estimator e; what it held before is gone (R89, R158), the other banks are as they were. -/
def setBank (s : State) (k : BankId) (e : Estimator) : State := { s with banks := s.banks.set k (some e) }

/-- The response of the command stands in RSP_LATCH (R74). -/
def setResponse (r : ResponseWord) (s : State) : State := { s with rspLatch := r }

/-- `respond(OK, sat, value)` (R13). -/
def respond (sat : Bool) (value : Value) (s : State) : Result := .next (setResponse (okWord sat value) s)

/-- `raise e` (R13, R183): the response is the whole effect. -/
def raise (e : CommandError) (s : State) : Result := .next (setResponse (errorWord e) s)

/-- Carry on with the estimator of bank k, or raise NotCreated (R179). -/
def withBank (k : BankId) (s : State) (run : Estimator → Result) : Result :=
  match bank s k with
  | some e => run e
  | none => raise .notCreated s

/-- Carry on with two sources of equal precision, or raise NotCreated first and SizeMismatch second (R178, R179, R182). -/
def withSources (a b : BankId) (s : State) (run : Estimator → Estimator → Result) : Result :=
  withBank a s fun ea => withBank b s fun eb =>
    if ea.b = eb.b then run ea eb else raise .sizeMismatch s

/-- A new estimator of m registers, all zero (R86, R88). -/
def Estimator.fresh (m : Nat) : Estimator where
  b := BitVec.ofNat 5 (msb m)
  regs := List.replicate m 0

/-- The max-tracker: `x[i] <- max(x[i], r)`, the one cell read and written (R102). -/
def Estimator.track (e : Estimator) (i r : Nat) : Estimator :=
  { e with regs := e.regs.modify i fun old => cellMax old (BitVec.ofNat 6 r) }

/-- The union of two estimators of one precision (R156). -/
def Estimator.union (x y : Estimator) : Estimator where
  b := x.b
  regs := unionCells x.regs y.regs

end Sys2Proof.Machine
end

