-- ==== Sys2Proof/Machine/Add.lean ====
section
/-! DEFINITION. ADD (41_add.md). -/

namespace Sys2Proof.Machine

/-- `ADD bD, hash` (R104). -/
def execAdd (d : BankId) (h : Imm) (s : State) : Result :=
  withBank d s fun e =>
    respond false 0 (setBank s d (e.track (hashIndex h e.b.toNat) (rank h e.b.toNat)))

end Sys2Proof.Machine
end

