-- ==== Sys2Proof/Machine/Estimate.lean ====
section
/-! DEFINITION. The bias-corrected cardinality calculation engine: the bit-exact fixed-point function ESTIMATE of
42_count.md part B (R120 to R136), on naturals. -/

namespace Sys2Proof.Machine

/-- `POW(r) = 2^32 >> r` (R121). -/
def powerUnit (r : RegCell) : Nat := (2 ^ Config.zf) >>> r.toNat

/-- `ZACC`, the sum of the power units over the array (R121). -/
def zAcc (regs : List RegCell) : Nat := (regs.map powerUnit).sum

/-- `VCNT`, the number of registers still at zero (R122). -/
def vCnt (regs : List RegCell) : Nat := regs.countP (· == 0)

/-- `ALPHA_Q32[b]`: the ROM indexed by the precision (R123); no word for a precision outside it (assumption 9). -/
def alphaRom (c : Config) (b : Nat) : BitVec 32 :=
  if b < Config.bMin then Config.alphaUnlisted b
  else (c.alphaQ32[b - Config.bMin]?).getD (Config.alphaUnlisted b)

/-- `NUM = A << (2 * b)` (R124). -/
def numerator (a b : Nat) : Nat := a <<< (2 * b)

/-- SATP: `E0 >= 2^32` (R125). -/
def satP (a b zacc : Nat) : Bool := zacc == 0 || decide (zacc <<< 32 ≤ numerator a b)

/-- SMALLP: `E0 <= 2.5 * m` (R126). -/
def smallP (a b zacc : Nat) : Bool := decide (a <<< (b + 1) ≤ Config.smallNum * zacc)

/-- LARGEP: `E0 > 2^32 / 30` (R127). -/
def largeP (a b zacc : Nat) : Bool := decide (zacc <<< 32 < Config.largeDiv * numerator a b)

/-- The four ways to a result (R128). -/
inductive Path where
  | saturate
  | linear
  | large
  | raw
deriving DecidableEq, Repr

/-- Path selection, in the order of rule R128. -/
def choosePath (a b zacc vcnt : Nat) : Path :=
  if satP a b zacc then .saturate
  else if smallP a b zacc && vcnt != 0 then .linear
  else if largeP a b zacc then .large
  else .raw

/-- The squarings of the logarithm unit, one result bit each (R129). -/
def log2Bits : Nat → Nat → Nat → Nat
  | 0, _, frac => frac
  | k + 1, x, frac =>
    let y := (x * x) >>> Config.f
    if 2 ^ (Config.f + 1) ≤ y then log2Bits k (y >>> 1) (frac <<< 1 ||| 1)
    else log2Bits k y (frac <<< 1)

/-- `LOG2_Q48(n)` (R129). -/
def log2Q48 (n : Nat) : Nat :=
  (msb n <<< Config.f) ||| log2Bits Config.f (n <<< (Config.f - msb n)) 0

/-- `RHU16(q)`: round half up of a Q.16 value (R135). -/
def roundQ16 (q : Nat) : Nat := (q + 2 ^ 15) >>> Config.ef

/-- `LC` of the linear path, in Q.16 (R131). -/
def linearQ16 (b vcnt : Nat) : Nat :=
  ((((b <<< Config.f) - log2Q48 vcnt) * Config.ln2Q48) <<< b) >>> 80

/-- `E0_Q16`, the divider (R132). -/
def e0Q16 (a b zacc : Nat) : Nat := (numerator a b <<< Config.ef) / zacc

/-- `E2` of the large path, in Q.16 (R134). -/
def largeQ16 (e0 : Nat) : Nat :=
  (((48 <<< Config.f) - log2Q48 (2 ^ 48 - e0)) * Config.ln2Q48) >>> 48

/-- What the engine returns (R136). -/
structure Estimate where
  value : Nat
  sat   : Bool
deriving DecidableEq, Repr

/-- `ESTIMATE` (R136) with the alpha word as an argument, that word being an OPEN parameter (R123, U11). -/
def estimateWith (a : BitVec 32) (b : Nat) (regs : List RegCell) : Estimate :=
  let zacc := zAcc regs
  let vcnt := vCnt regs
  match choosePath a.toNat b zacc vcnt with
  | .saturate => ⟨Config.cntSat, true⟩
  | .linear => ⟨roundQ16 (linearQ16 b vcnt), false⟩
  | .large => ⟨roundQ16 (largeQ16 (e0Q16 a.toNat b zacc)), false⟩
  | .raw => ⟨roundQ16 (e0Q16 a.toNat b zacc), false⟩

/-- `ESTIMATE(b, reg)` of this hardware (R136). -/
def estimate (b : Nat) (regs : List RegCell) : Estimate := estimateWith (alphaRom Config.hllc1 b) b regs

end Sys2Proof.Machine
end

