-- ==== Sys2Proof/Machine/Count.lean ====
section
/-! DEFINITION. COUNT (42_count.md part C). -/

namespace Sys2Proof.Machine

/-- The estimate of an estimator (R136, R142). -/
def Estimator.estimate (e : Estimator) : Estimate := Machine.estimate e.b.toNat e.regs

/-- `COUNT bA` (R142). -/
def execCount (a : BankId) (s : State) : Result :=
  withBank a s fun e => respond e.estimate.sat (BitVec.ofNat 64 e.estimate.value) s

end Sys2Proof.Machine
end

