-- ==== Sys2Proof/Machine/Create.lean ====
section
/-! DEFINITION. CREATE (40_create.md). -/

namespace Sys2Proof.Machine

/-- `CREATE bD, m` (R88; on a valid bank it replaces the estimator, R89). -/
def execCreate (d : BankId) (m : Imm) (s : State) : Result :=
  if validM m then respond false 0 (setBank s d (Estimator.fresh m.toNat))
  else raise .invalidRegisterCount s

end Sys2Proof.Machine
end

