-- ==== Sys2Proof/Machine/Intersect.lean ====
section
/-! DEFINITION. INTERSECT (44_intersect.md). -/

namespace Sys2Proof.Machine

/-- `t = ca + cb - cu`, on integers (R167). -/
def overlap (ca cb cu : Nat) : Int := (ca : Int) + cb - cu

/-- The clamp of the integer t to [0, 2^64 - 1] (R167). -/
def clampValue (t : Int) : Nat :=
  if t < 0 then 0 else if t > Config.cntSat then Config.cntSat else t.toNat

/-- The intersection estimate of two estimators of one precision: inclusion-exclusion over three estimates, the union
formed on the fly (R166, R167). -/
def Estimator.intersection (x y : Estimator) : Estimate where
  value := clampValue (overlap x.estimate.value y.estimate.value (x.union y).estimate.value)
  sat := satAny x.estimate.sat y.estimate.sat (x.union y).estimate.sat

/-- `INTERSECT bA, bB` (R168). -/
def execIntersect (a b : BankId) (s : State) : Result :=
  withSources a b s fun ea eb =>
    respond (ea.intersection eb).sat (BitVec.ofNat 64 (ea.intersection eb).value) s

end Sys2Proof.Machine
end

