-- ==== Sys2Proof/Machine/Merge.lean ====
section
/-! DEFINITION. MERGE (43_merge.md). -/

namespace Sys2Proof.Machine

/-- `MERGE bD, bA, bB` (R158): both sources are read as they stood before, bank D is not checked. -/
def execMerge (d a b : BankId) (s : State) : Result :=
  withSources a b s fun ea eb => respond false 0 (setBank s d (ea.union eb))

end Sys2Proof.Machine
end

