-- ==== Sys2Proof/Machine/Dispatch.lean ====
section
/-! DEFINITION. The command rules by opcode (R77): one arm per command. -/

namespace Sys2Proof.Machine

def exec (i : Instr) (s : State) : Host.Outcome State Fault Refusal :=
  match i with
  | .create d m => Sys2Proof.Machine.execCreate d m s
  | .add d h => Sys2Proof.Machine.execAdd d h s
  | .count a => Sys2Proof.Machine.execCount a s
  | .merge d a b => Sys2Proof.Machine.execMerge d a b s
  | .intersect a b => Sys2Proof.Machine.execIntersect a b s

end Sys2Proof.Machine
end

