-- ==== Sys2Proof/Machine/Port.lean ====
section
/-! DEFINITION. The ports (R73), the handshake and its phases (R74), the reset edge (R200 to R204), and the acceptance of
a command word, which is this hardware's whole instruction fetch (R28, R54). -/

namespace Sys2Proof.Machine

/-- A host that asserts nothing at an edge (assumption 6). -/
def PortIn.quiet : PortIn where
  rst := false
  cmdValid := false
  cmdData := 0
  rspReady := false

/-- What the pins carry at the coming edge. -/
def sample (s : State) : PortIn := s.edges.headD PortIn.quiet

/-- The edge's sample is used up. -/
def passEdge (s : State) : State := { s with edges := s.edges.tail }

/-- `cmd_ready` (R74). -/
def cmdReady (s : State) : Bool := s.phase == .idle

/-- `rsp_valid` (R74). -/
def rspValid (s : State) : Bool := s.phase == .resp

/-- `rsp_data`, meaningful only while `rsp_valid = 1` (R73, R74). -/
def rspData (s : State) : Option ResponseWord := if rspValid s then some s.rspLatch else none

/-- RESET (R200): nothing of the core survives (R204). What holds no value from here on stands at its value in
`State.reset` (assumption 2); the environment's two lists are not the core's and go on. -/
def resetCore (s : State) : State := { State.reset with busyPlan := s.busyPlan, edges := s.edges }

/-- The word on `cmd_data` is accepted (R74). -/
def acceptWord (w : CommandWord) (s : State) : State :=
  { s with phase := .busy, cmdLatch := w, busyLeft := s.busyPlan.headD 0, busyPlan := s.busyPlan.tail }

/-- PHASE goes to p (R74). -/
def setPhase (p : Phase) (s : State) : State := { s with phase := p }

/-- One edge of BUSY has passed and n more are to come (R74). -/
def setBusyLeft (n : Nat) (s : State) : State := { s with busyLeft := n }

/-- `exec(State, w)` of R14 and R77: an illegal word raises IllegalCommand before any state is looked at (R182). -/
def execWord (w : CommandWord) (s : State) : Result :=
  match decode w with
  | .ok i => exec i s
  | .error _ => raise .illegalCommand s

/-- The command's effect is in place and its response is offered: PHASE goes to RESP (R74). -/
def offerResponse (r : Result) : Result :=
  match r with
  | .next t => .next (setPhase .resp t)
  | .fault x => .fault x
  | .refused x => .refused x

/-- An edge in IDLE (R74). -/
def idleEdge (p : PortIn) (s : State) : State := if p.cmdValid then acceptWord p.cmdData s else s

/-- An edge in BUSY (R74): one of the further edges, or the one indivisible change of the state (R48). -/
def busyEdge (s : State) : Result :=
  match s.busyLeft with
  | n + 1 => .next (setBusyLeft n s)
  | 0 => offerResponse (execWord s.cmdLatch s)

/-- An edge in RESP (R74). -/
def respEdge (p : PortIn) (s : State) : State := if p.rspReady then setPhase .idle s else s

/-- One rising clock edge: reset wins over everything (R200), else the phase decides (R74). -/
def clockEdge (s : State) : Result :=
  if (sample s).rst then .next (resetCore (passEdge s))
  else match s.phase with
    | .idle => .next (idleEdge (sample s) (passEdge s))
    | .busy => busyEdge (passEdge s)
    | .resp => .next (respEdge (sample s) (passEdge s))

/-- The word w has been accepted and is about to be executed, and no reset arrives at the coming edge (assumption 7). -/
def placeWord (w : CommandWord) (s : State) : State :=
  { s with phase := .busy, cmdLatch := w, busyLeft := 0, edges := PortIn.quiet :: s.edges }

/-- A host that sends the word w and takes its response at once, over three edges with `BUSY_LEN` = 0: offer, wait, take
(R210). -/
def sendWord (w : CommandWord) : List PortIn :=
  [{ PortIn.quiet with cmdValid := true, cmdData := w }, PortIn.quiet, { PortIn.quiet with rspReady := true }]

end Sys2Proof.Machine
end

