-- ==== Sys2Proof/Machine/Step.lean ====
section
/-! DEFINITION. One step of the machine is one rising clock edge (R73, R74, R200; assumption 7). -/

namespace Sys2Proof.Machine

/-- One rising clock edge. -/
def step (s : State) : Host.Outcome State Fault Refusal := clockEdge s

/-- The state with a command word, given in the numbering of spec/opcode_table.json, standing where the core executes its
next command: accepted in CMD_LATCH, in BUSY (assumption 7). -/
def State.withFetchWord (s : State) (nbits w : Nat) : State := placeWord (tableWord nbits w) s

end Sys2Proof.Machine
end

