-- ==== Sys2Proof/Reference.lean ====
section
/-! DEFINITION. The reference definition of the estimate over exact numbers (42_count.md part A, R110 to R119), which says
WHAT is estimated. The machine does not run it (part B does); statements compare the two. -/

namespace Sys2Proof.Reference

/-- `Z`, the plain sum of `2^-registers[i]` (R111). -/
def indicatorSum (regs : List RegCell) : ℚ := (regs.map fun r => (1 : ℚ) / 2 ^ r.toNat).sum

/-- `V`, the number of registers still at zero (R112). -/
def zeroCount (regs : List RegCell) : Nat := (regs.filter fun r => r.toNat = 0).length

/-- `E0 = alpha(m) * m^2 / Z` (R113). -/
def rawEstimate (alpha : ℚ) (b : Nat) (regs : List RegCell) : ℚ :=
  alpha * (2 ^ b) ^ 2 / indicatorSum regs

/-- E after the small-range correction (R114). -/
noncomputable def smallCorrected (alpha : ℚ) (b : Nat) (regs : List RegCell) : ℝ :=
  if rawEstimate alpha b regs ≤ 5 / 2 * 2 ^ b ∧ zeroCount regs ≠ 0 then
    2 ^ b * Real.log (2 ^ b / zeroCount regs)
  else (rawEstimate alpha b regs : ℝ)

/-- E after the large-range correction (R115). -/
noncomputable def largeCorrected (e : ℝ) : ℝ :=
  if e > 2 ^ 32 / 30 then -(2 ^ 32) * Real.log (1 - e / 2 ^ 32) else e

/-- `COUNT_REF` (R116, R119); meaningful where the raw estimate is below 2^32 (R119). -/
noncomputable def countRef (alpha : ℚ) (b : Nat) (regs : List RegCell) : ℤ :=
  ⌊largeCorrected (smallCorrected alpha b regs) + 1 / 2⌋

end Sys2Proof.Reference
end

