-- ==== Sys2Proof/Safety.lean ====
section
/-! DEFINITION. What a safe state and a safe run are, in the terms the statements use: the invariant of R22, R23, R25 and
R72, and what the outside sees at the ports over a run of clock edges (R14, R67, R74). -/

namespace Sys2Proof.Machine

/-- A legal estimator: `4 <= b <= 18` (R22), exactly `2^b` registers (R23), none above `33 - b` (R25). -/
def Estimator.ok (e : Estimator) : Bool :=
  decide (Config.bMin ≤ e.b.toNat) && decide (e.b.toNat ≤ Config.bMax) &&
    e.regs.length == 2 ^ e.b.toNat && e.regs.all fun r => decide (r.toNat ≤ rankMax e.b.toNat)

/-- Every valid bank holds a legal estimator. -/
abbrev BanksOk (s : State) : Prop := ∀ k : BankId, ∀ e ∈ bank s k, e.ok = true

/-- A response the core can produce (R72): `{0, sat, v}`, or `{c, 0, 0}` for c in 1 .. 4. -/
def responseOk (r : ResponseWord) : Bool :=
  rspZeros r == 0 && (rspStatus r == 0 ||
    (decide (rspStatus r ≤ 4) && rspSat r == 0 && rspValue r == 0))

/-- The invariant every step keeps: legal banks, and a legal response whenever one is offered. -/
abbrev StateOk (s : State) : Prop := BanksOk s ∧ (s.phase = .resp → responseOk s.rspLatch = true)

/-- The bank a command names in its RD field (R63). -/
def dest : Instr → Option BankId
  | .create d _ => some d
  | .add d _ => some d
  | .count _ => none
  | .merge d _ _ => some d
  | .intersect _ _ => none

/-- The match and mask table of rule R64, as pairs of mask and match, in the order of the opcodes. -/
def commandPatterns : List (CommandWord × CommandWord) :=
  [(0xF3FFFFFF00000000, 0x1000000000000000), (0xF3FFFFFF00000000, 0x2000000000000000),
   (0xFCFFFFFFFFFFFFFF, 0x3000000000000000), (0xF03FFFFFFFFFFFFF, 0x4000000000000000),
   (0xFC3FFFFFFFFFFFFF, 0x5000000000000000)]

/-- Word w is the command of pattern p (R64). -/
abbrev Matches (w : CommandWord) (p : CommandWord × CommandWord) : Prop := w &&& p.1 = p.2

/-- Nothing but the banks and the response latch differs between s and t. -/
abbrev ControlUnchanged (s t : State) : Prop :=
  t.phase = s.phase ∧ t.cmdLatch = s.cmdLatch ∧ t.busyLeft = s.busyLeft ∧ t.busyPlan = s.busyPlan ∧ t.edges = s.edges

/-- The command is an ADD or a MERGE into bank k. -/
def fills (k : BankId) : Instr → Bool
  | .create _ _ => false
  | .add d _ => d == k
  | .count _ => false
  | .merge d _ _ => d == k
  | .intersect _ _ => false

/-- Two states that differ at most in what holds no meaning in their phase (R30, R32): CMD_LATCH outside BUSY, RSP_LATCH
outside RESP, the edges left outside BUSY. -/
abbrev SeenAlike (s t : State) : Prop :=
  t.banks = s.banks ∧ t.phase = s.phase ∧ t.edges = s.edges ∧ t.busyPlan = s.busyPlan ∧
    (s.phase = .busy → t.cmdLatch = s.cmdLatch ∧ t.busyLeft = s.busyLeft) ∧
    (s.phase = .resp → t.rspLatch = s.rspLatch)

/-- Command i answers with the status code c in state s. -/
abbrev Answers (i : Instr) (s : State) (c : BitVec 4) : Prop :=
  ∃ t, exec i s = .next t ∧ rspStatus t.rspLatch = c

/-- The commands one after the other (R14, R51), the handshake left out. -/
def execList : List Instr → State → Option State
  | [], s => some s
  | i :: is, s =>
    match exec i s with
    | .next t => execList is t
    | .fault _ => none
    | .refused _ => none

/-- Of the commands run one after the other from s, none that satisfies p succeeds. -/
def NoneSucceeds (p : Instr → Bool) : List Instr → State → Prop
  | [], _ => True
  | i :: is, s =>
    ∃ t, exec i s = .next t ∧ (p i = true → rspStatus t.rspLatch ≠ 0) ∧ NoneSucceeds p is t

/-- The state after the words are executed in order (R14). -/
def replayState : List CommandWord → State → Option State
  | [], s => some s
  | w :: ws, s =>
    match execWord w s with
    | .next t => replayState ws t
    | .fault _ => none
    | .refused _ => none

/-- The responses to the words executed in order (R14). -/
def replay : List CommandWord → State → List ResponseWord
  | [], _ => []
  | w :: ws, s =>
    match execWord w s with
    | .next t => t.rspLatch :: replay ws t
    | .fault _ => []
    | .refused _ => []

/-- The word accepted at the coming edge, if any (R74, R210). -/
def acceptedAt (s : State) : Option CommandWord :=
  if !(sample s).rst && cmdReady s && (sample s).cmdValid then some (sample s).cmdData else none

/-- The response taken at the coming edge, if any (R74, R210). -/
def takenAt (s : State) : Option ResponseWord :=
  if !(sample s).rst && (sample s).rspReady then rspData s else none

/-- The state after n edges. -/
def stateAfter : Nat → State → Option State
  | 0, s => some s
  | n + 1, s =>
    match step s with
    | .next t => stateAfter n t
    | .fault _ => none
    | .refused _ => none

/-- The words accepted over the next n edges, in order. -/
def acceptedWords : Nat → State → List CommandWord
  | 0, _ => []
  | n + 1, s =>
    (acceptedAt s).toList ++
      match step s with
      | .next t => acceptedWords n t
      | .fault _ => []
      | .refused _ => []

/-- The responses taken over the next n edges, in order. -/
def takenResponses : Nat → State → List ResponseWord
  | 0, _ => []
  | n + 1, s =>
    (takenAt s).toList ++
      match step s with
      | .next t => takenResponses n t
      | .fault _ => []
      | .refused _ => []

/-- No reset arrives at the next n edges. -/
abbrev NoReset (n : Nat) (s : State) : Prop := ∀ p ∈ s.edges.take n, p.rst = false

end Sys2Proof.Machine
end

