-- ==== Sys2Proof/Certificates/Slice0/Obligations.lean ====
section
/-! DEFINITION. The statements for the provers, drawn from the numbered rules of spec/. -/

open Sys2Proof Sys2Proof.Machine

/-! ### Encoding and decode -/

/-- Decode and encode agree on every well-formed command (R61 to R63, R75). -/
def Obligations.DecodeReadsBackEveryEncoding : Prop :=
  ∀ i : Instr, i.wellFormed = true → decode (encode i) = .ok i

/-- A word that decodes is the one encoding of its command (92_eei_decisions.md D6). -/
def Obligations.EveryCommandWordIsItsEncoding : Prop :=
  ∀ (w : CommandWord) (i : Instr), decode w = .ok i → encode i = w

/-- R64: the legality predicate bit by bit, the mask and match table, and its disjointness; the decoder accepts exactly the
legal words, each pattern as its own mnemonic. -/
def Obligations.LegalWordsAreTheMaskTable : Prop :=
  (∀ w : CommandWord, legal w = true ↔
    w.extractLsb' 32 22 = 0 ∧
      ((w.extractLsb' 60 4 = 1 ∧ w.extractLsb' 56 2 = 0 ∧ w.extractLsb' 54 2 = 0) ∨
       (w.extractLsb' 60 4 = 2 ∧ w.extractLsb' 56 2 = 0 ∧ w.extractLsb' 54 2 = 0) ∨
       (w.extractLsb' 60 4 = 3 ∧ w.extractLsb' 58 2 = 0 ∧ w.extractLsb' 54 2 = 0 ∧ w.extractLsb' 0 32 = 0) ∨
       (w.extractLsb' 60 4 = 4 ∧ w.extractLsb' 0 32 = 0) ∨
       (w.extractLsb' 60 4 = 5 ∧ w.extractLsb' 58 2 = 0 ∧ w.extractLsb' 0 32 = 0))) ∧
  (∀ w : CommandWord, Matches w (0xF3FFFFFF00000000, 0x1000000000000000) ↔ ∃ d m, decode w = .ok (.create d m)) ∧
  (∀ w : CommandWord, Matches w (0xF3FFFFFF00000000, 0x2000000000000000) ↔ ∃ d h, decode w = .ok (.add d h)) ∧
  (∀ w : CommandWord, Matches w (0xFCFFFFFFFFFFFFFF, 0x3000000000000000) ↔ ∃ a, decode w = .ok (.count a)) ∧
  (∀ w : CommandWord, Matches w (0xF03FFFFFFFFFFFFF, 0x4000000000000000) ↔ ∃ d a b, decode w = .ok (.merge d a b)) ∧
  (∀ w : CommandWord, Matches w (0xFC3FFFFFFFFFFFFF, 0x5000000000000000) ↔ ∃ a b, decode w = .ok (.intersect a b)) ∧
  (∀ w : CommandWord, legal w = true ↔ ∃ p ∈ commandPatterns, Matches w p) ∧
  commandPatterns.Pairwise (fun p q => ∀ w : CommandWord, ¬ (Matches w p ∧ Matches w q))

/-- R180: IllegalCommand for every word that is none of the five patterns, in every state, and for no other; with the three
causes the rule names. -/
def Obligations.IllegalWordsAreRefusedInEveryState : Prop :=
  (∀ (w : CommandWord) (s : State), (∀ p ∈ commandPatterns, ¬ Matches w p) →
    execWord w s = .next { s with rspLatch := 0x400000000000000000 }) ∧
  (∀ (w : CommandWord) (s t : State), (∃ p ∈ commandPatterns, Matches w p) →
    execWord w s = .next t → rspStatus t.rspLatch ≠ 4) ∧
  (∀ w : CommandWord, (∀ p ∈ commandPatterns, ¬ Matches w p) ↔
    ((opField w).toNat = 0 ∨ 6 ≤ (opField w).toNat) ∨ rsvField w ≠ 0 ∨
      ((opField w = 1 ∨ opField w = 2) ∧ (raField w ≠ 0 ∨ rbField w ≠ 0)) ∨
      (opField w = 3 ∧ (rdField w ≠ 0 ∨ rbField w ≠ 0 ∨ immField w ≠ 0)) ∨
      (opField w = 4 ∧ immField w ≠ 0) ∨
      (opField w = 5 ∧ (rdField w ≠ 0 ∨ immField w ≠ 0)))

/-- A few words of 30_encoding.md section 5 and 95_test_vectors.md section 3, written out there. -/
def Obligations.SampleWordsDecodeAsWritten : Prop :=
  decode 0x1400000000000800 = .ok (.create 1 2048) ∧
  decode 0x2000000012345678 = .ok (.add 0 0x12345678) ∧
  decode 0x3300000000000000 = .ok (.count 3) ∧
  decode 0x4C40000000000000 = .ok (.merge 3 0 1) ∧
  decode 0x5080000000000000 = .ok (.intersect 0 2) ∧
  decode 0x0000000000000000 = .error .unassignedOpcode ∧
  decode 0x1000000100000010 = .error .reservedFieldNonzero ∧
  decode 0x3100000000000001 = .error .unusedFieldNonzero

/-! ### The clock edge: handshake, execution, reset -/

/-- The edge that leaves BUSY runs the decoded command on the state, with the edge's input used up, and offers the response
(R74, R77); in particular on a word placed by `withFetchWord` (the model's convention, assumption 7). -/
def Obligations.StepRunsTheDecodedCommand : Prop :=
  (∀ (s : State) (i : Instr), s.phase = .busy → s.busyLeft = 0 → (sample s).rst = false → decode s.cmdLatch = .ok i →
    ∃ t, exec i (passEdge s) = .next t ∧ step s = .next { t with phase := .resp }) ∧
  (∀ (s : State) (x : IllegalWord), s.phase = .busy → s.busyLeft = 0 → (sample s).rst = false →
    decode s.cmdLatch = .error x →
    step s = .next { passEdge s with phase := .resp, rspLatch := 0x400000000000000000 }) ∧
  (∀ (s : State) (nbits w : Nat) (i : Instr), decodeTableWord nbits w = some i →
    ∃ t, exec i (passEdge (s.withFetchWord nbits w)) = .next t ∧
      step (s.withFetchWord nbits w) = .next { t with phase := .resp })

/-- The handshake and its phases (R74), at an edge without reset. How long BUSY lasts is the environment's choice in the
model (assumption 5). -/
def Obligations.HandshakeFollowsThePhases : Prop :=
  ∀ s : State, (sample s).rst = false →
    (s.phase = .idle →
      cmdReady s = true ∧ rspValid s = false ∧
      ((sample s).cmdValid = true → ∃ t, step s = .next t ∧ t.phase = .busy ∧ t.cmdLatch = (sample s).cmdData ∧
        t.banks = s.banks) ∧
      ((sample s).cmdValid = false → step s = .next (passEdge s))) ∧
    (s.phase = .busy →
      cmdReady s = false ∧ rspValid s = false ∧
      (s.busyLeft ≠ 0 → ∃ t, step s = .next t ∧ t.phase = .busy ∧ t.cmdLatch = s.cmdLatch ∧ t.banks = s.banks ∧
        t.busyLeft + 1 = s.busyLeft) ∧
      (s.busyLeft = 0 → ∃ t u, execWord s.cmdLatch s = .next u ∧ step s = .next t ∧ t.phase = .resp ∧
        t.rspLatch = u.rspLatch ∧ t.banks = u.banks)) ∧
    (s.phase = .resp →
      cmdReady s = false ∧ rspValid s = true ∧ rspData s = some s.rspLatch ∧
      ((sample s).rspReady = true → step s = .next { passEdge s with phase := .idle }) ∧
      ((sample s).rspReady = false → step s = .next (passEdge s)))

/-- R200: what an edge with rst = 1 leaves, whatever the phase and the other inputs; that the latches hold no value from then on
says that whatever stands in them is never seen. -/
def Obligations.ResetEdgeEmptiesTheCore : Prop :=
  ∀ s : State, (sample s).rst = true →
    acceptedAt s = none ∧ takenAt s = none ∧
    ∃ t, step s = .next t ∧ (∀ k, valid t k = false ∧ prec t k = none ∧ ∀ i, cell t k i = none) ∧ t.phase = .idle ∧
      cmdReady t = true ∧ rspValid t = false ∧ rspData t = none ∧
      t.edges = s.edges.tail ∧ t.busyPlan = s.busyPlan ∧
      ∀ (c : CommandWord) (r : ResponseWord) (n : Nat),
        acceptedWords n { t with cmdLatch := c, rspLatch := r } = acceptedWords n t ∧
        takenResponses n { t with cmdLatch := c, rspLatch := r } = takenResponses n t

/-- R202: one edge is a complete reset, further edges change nothing more, and the first edge without reset accepts. -/
def Obligations.HoldingResetChangesNothingMore : Prop :=
  ∀ s t : State, (sample s).rst = true → step s = .next t →
    ((sample t).rst = true → step t = .next (passEdge t)) ∧
    ((sample t).rst = false → (sample t).cmdValid = true →
      acceptedAt t = some (sample t).cmdData ∧
      ∃ u, step t = .next u ∧ u.phase = .busy ∧ u.cmdLatch = (sample t).cmdData) ∧
    ((sample t).rst = false → (sample t).cmdValid = false → step t = .next (passEdge t))

/-- R203: a reset in BUSY or RESP drops the command or the response, every bank is invalid afterwards, and what is answered
from then on belongs to words accepted from then on. -/
def Obligations.ResetDropsTheCommandInFlight : Prop :=
  ∀ s : State, (sample s).rst = true → s.phase = .busy ∨ s.phase = .resp →
    takenAt s = none ∧
    ∃ t, step s = .next t ∧ t.phase = .idle ∧ (∀ k, valid t k = false) ∧
      ∀ n, NoReset n t → takenResponses n t <+: replay (acceptedWords n t) State.reset

/-- R204: nothing survives reset. Two cores that meet a reset edge and are then driven alike cannot be told apart, whatever
each held before. -/
def Obligations.NothingSurvivesReset : Prop :=
  ∀ s s' t t' : State, (sample s).rst = true → (sample s').rst = true →
    s.edges.tail = s'.edges.tail → s.busyPlan = s'.busyPlan →
    step s = .next t → step s' = .next t' →
    (∀ k, bank t k = bank t' k) ∧ t.phase = t'.phase ∧
    ∀ n, acceptedWords n t = acceptedWords n t' ∧ takenResponses n t = takenResponses n t'

/-- R32: the state after reset. -/
def Obligations.ResetStateHoldsNoEstimator : Prop :=
  (∀ k, valid State.reset k = false ∧ prec State.reset k = none ∧ ∀ i, cell State.reset k i = none) ∧
  State.reset.phase = .idle ∧ cmdReady State.reset = true ∧ rspValid State.reset = false ∧ rspData State.reset = none

/-- Every edge has a next state, and so has every word in every state (R14). -/
def Obligations.EveryEdgeHasANextState : Prop :=
  (∀ s : State, ∃ t, step s = .next t) ∧ (∀ (w : CommandWord) (s : State), ∃ t, execWord w s = .next t)

/-- Liveness of BUSY (R214): without a reset the core leaves BUSY after the edges the environment chose (the model's
convention, assumption 5), with the command's whole effect in place at once and none before (R74). -/
def Obligations.BusyEndsWithTheWholeEffect : Prop :=
  ∀ s : State, s.phase = .busy → NoReset (s.busyLeft + 1) s →
    (∀ j ≤ s.busyLeft, ∃ v, stateAfter j s = some v ∧ v.phase = .busy ∧ v.banks = s.banks ∧ rspData v = none) ∧
    ∃ t u, stateAfter (s.busyLeft + 1) s = some t ∧ execWord s.cmdLatch s = .next u ∧
      t.phase = .resp ∧ t.banks = u.banks ∧ rspData t = some u.rspLatch

/-- Refinement (R14, R51, R67): between resets, whatever the host's timing and the length of BUSY, the responses taken are
those of the accepted words executed one after the other, in order, at most one word behind; and in IDLE nothing is
outstanding and the banks are those of that execution. -/
def Obligations.HandshakeDeliversTheResponsesOfExec : Prop :=
  ∀ (n : Nat) (s t : State), s.phase = .idle → NoReset n s → stateAfter n s = some t →
    takenResponses n s <+: replay (acceptedWords n s) s ∧
    (acceptedWords n s).length ≤ (takenResponses n s).length + 1 ∧
    (t.phase = .idle →
      takenResponses n s = replay (acceptedWords n s) s ∧
      ∃ u, replayState (acceptedWords n s) s = some u ∧ u.banks = t.banks)

/-- Timing is not seen (R214): two runs from equal banks that accept the same words take responses of which one list is a
prefix of the other, and end with equal responses and banks when both are back in IDLE. -/
def Obligations.ResponsesDependOnlyOnAcceptedWords : Prop :=
  ∀ (m n : Nat) (s s' t t' : State), s.phase = .idle → s'.phase = .idle → s.banks = s'.banks →
    NoReset m s → NoReset n s' → stateAfter m s = some t → stateAfter n s' = some t' →
    acceptedWords m s = acceptedWords n s' →
    (takenResponses m s <+: takenResponses n s' ∨ takenResponses n s' <+: takenResponses m s) ∧
    (t.phase = .idle → t'.phase = .idle → takenResponses m s = takenResponses n s' ∧ t.banks = t'.banks)

/-- What holds no value in a phase is never seen (R30, R32, R206): the values the model gives the latches there (the model's
choice, assumptions 1 and 2) reach no port, over any run, resets included. -/
def Obligations.LatchesAreNotSeenOutsideTheirPhase : Prop :=
  ∀ (n : Nat) (s s' : State), SeenAlike s s' →
    acceptedWords n s = acceptedWords n s' ∧ takenResponses n s = takenResponses n s' ∧
    ∃ t t', stateAfter n s = some t ∧ stateAfter n s' = some t' ∧ SeenAlike t t' ∧
      cmdReady t = cmdReady t' ∧ rspValid t = rspValid t' ∧ rspData t = rspData t'

/-! ### Invariants -/

/-- The invariant holds after reset (R25, R32). -/
def Obligations.ResetStateMeetsTheInvariant : Prop := StateOk State.reset

/-- Headline: every edge, from every state that meets it, keeps the invariant: legal precisions, exactly 2^b registers, none
above 33 - b (R22, R23, R25), and only legal responses on offer (R72). -/
def Obligations.EveryStepKeepsTheInvariant : Prop :=
  ∀ s t : State, StateOk s → step s = .next t → StateOk t

/-- Only reset makes a valid bank invalid (R22, R34). -/
def Obligations.OnlyResetInvalidatesABank : Prop :=
  ∀ (s t : State) (k : BankId), step s = .next t → (sample s).rst = false → valid s k = true → valid t k = true

/-- R27: a bank is changed only by a successful command that names it in RD; nothing but the banks and the response is ever
changed by a command. -/
def Obligations.BanksChangeOnlyThroughRd : Prop :=
  ∀ (w : CommandWord) (s t : State), execWord w s = .next t →
    ControlUnchanged s t ∧
    ∀ k, bank t k ≠ bank s k → rspStatus t.rspLatch = 0 ∧
      ((∃ m, decode w = .ok (.create k m)) ∨ (∃ h, decode w = .ok (.add k h)) ∨ (∃ a b, decode w = .ok (.merge k a b)))

/-! ### Responses and errors -/

/-- The response words the core can produce, as 72-bit numbers (R72). -/
def Obligations.ResponseWordsAreTheListedOnes : Prop :=
  ∀ (w : CommandWord) (s t : State), execWord w s = .next t →
    (∃ c, 1 ≤ c ∧ c ≤ 4 ∧ t.rspLatch.toNat = c <<< 68) ∨
    t.rspLatch.toNat = 0 ∨
    (((∃ a, decode w = .ok (.count a)) ∨ (∃ a b, decode w = .ok (.intersect a b))) ∧
      ∃ sat v, sat ≤ 1 ∧ v < 2 ^ 64 ∧ t.rspLatch.toNat = sat <<< 64 ||| v)

/-- An error leaves the state as it was, and its response is `{STATUS, 0, 0}` (R13, R176, R183). -/
def Obligations.ErrorsLeaveTheStateAsItWas : Prop :=
  ∀ (w : CommandWord) (s t : State), execWord w s = .next t → rspStatus t.rspLatch ≠ 0 →
    t = { s with rspLatch := t.rspLatch } ∧ rspStatus t.rspLatch ≤ 4 ∧
    rspZeros t.rspLatch = 0 ∧ rspSat t.rspLatch = 0 ∧ rspValue t.rspLatch = 0

/-- A failed command has no effect on any later response (R184). -/
def Obligations.ErrorsHaveNoLaterEffect : Prop :=
  ∀ (w : CommandWord) (ws : List CommandWord) (s t : State), execWord w s = .next t → rspStatus t.rspLatch ≠ 0 →
    replay (w :: ws) s = t.rspLatch :: replay ws s

/-- R182: the status a word answers with is that of the first check that fails, in the fixed order. -/
def Obligations.StatusIsTheFirstFailingCheck : Prop :=
  ∀ (w : CommandWord) (s t : State), execWord w s = .next t →
    (legal w = false → rspStatus t.rspLatch = 4) ∧
    (∀ d m, decode w = .ok (.create d m) → rspStatus t.rspLatch = if validM m = true then 0 else 1) ∧
    (∀ d h, decode w = .ok (.add d h) → rspStatus t.rspLatch = if valid s d = true then 0 else 3) ∧
    (∀ a, decode w = .ok (.count a) → rspStatus t.rspLatch = if valid s a = true then 0 else 3) ∧
    (∀ d a b, decode w = .ok (.merge d a b) →
      rspStatus t.rspLatch = if valid s a = true ∧ valid s b = true then (if prec s a = prec s b then 0 else 2) else 3) ∧
    (∀ a b, decode w = .ok (.intersect a b) →
      rspStatus t.rspLatch = if valid s a = true ∧ valid s b = true then (if prec s a = prec s b then 0 else 2) else 3)

/-- R177: InvalidRegisterCount is raised by CREATE exactly when the count is not one of the fifteen, by no other command,
and the bank keeps whatever it held. -/
def Obligations.InvalidRegisterCountIsRaisedExactly : Prop :=
  (∀ (d : BankId) (m : Imm) (s : State), Answers (.create d m) s 1 ↔ ¬ ∃ b, 4 ≤ b ∧ b ≤ 18 ∧ m.toNat = 2 ^ b) ∧
  (∀ (i : Instr) (s t : State), exec i s = .next t → rspStatus t.rspLatch = 1 →
    (∃ d m, i = .create d m) ∧ ∀ k, bank t k = bank s k)

/-- R87: the fifteen legal register counts, as a list and as a predicate. -/
def Obligations.LegalRegisterCountsAreTheFifteen : Prop :=
  (∀ m : Imm, validM m = true ↔ m.toNat ∈ [16, 32, 64, 128, 256, 512, 1024, 2048, 4096, 8192, 16384, 32768, 65536, 131072,
    262144]) ∧
  (∀ m : Imm, validM m = true ↔ (∃ k, m.toNat = 2 ^ k) ∧ 16 ≤ m.toNat ∧ m.toNat ≤ 262144)

/-- R178: SizeMismatch is raised by MERGE and INTERSECT exactly when both sources are valid and their B fields differ; the
destination of MERGE is not compared; no operand is changed. -/
def Obligations.SizeMismatchIsRaisedExactly : Prop :=
  (∀ (d a b : BankId) (s : State), Answers (.merge d a b) s 2 ↔
    ∃ ba bb, prec s a = some ba ∧ prec s b = some bb ∧ ba ≠ bb) ∧
  (∀ (a b : BankId) (s : State), Answers (.intersect a b) s 2 ↔
    ∃ ba bb, prec s a = some ba ∧ prec s b = some bb ∧ ba ≠ bb) ∧
  (∀ (i : Instr) (s t : State), exec i s = .next t → rspStatus t.rspLatch = 2 →
    ((∃ d a b, i = .merge d a b) ∨ (∃ a b, i = .intersect a b)) ∧ ∀ k, bank t k = bank s k)

/-- R179: NotCreated, by which commands and exactly when; CREATE never raises it, the RD bank of MERGE is not checked, and
after reset every bank is in this condition. -/
def Obligations.NotCreatedIsRaisedExactly : Prop :=
  (∀ (d : BankId) (h : Imm) (s : State), Answers (.add d h) s 3 ↔ valid s d = false) ∧
  (∀ (a : BankId) (s : State), Answers (.count a) s 3 ↔ valid s a = false) ∧
  (∀ (d a b : BankId) (s : State), Answers (.merge d a b) s 3 ↔ (valid s a = false ∨ valid s b = false)) ∧
  (∀ (a b : BankId) (s : State), Answers (.intersect a b) s 3 ↔ (valid s a = false ∨ valid s b = false)) ∧
  (∀ (d : BankId) (m : Imm) (s : State), ¬ Answers (.create d m) s 3) ∧
  (∀ k, valid State.reset k = false)

/-- On valid banks of equal precision nothing fails, saturation included (R181). -/
def Obligations.ValidBanksNeverFail : Prop :=
  (∀ (d : BankId) (h : Imm) (s : State), valid s d = true → Answers (.add d h) s 0) ∧
  (∀ (a : BankId) (s : State), valid s a = true → Answers (.count a) s 0) ∧
  (∀ (d a b : BankId) (s : State), valid s a = true → valid s b = true → prec s a = prec s b →
    Answers (.merge d a b) s 0) ∧
  (∀ (a b : BankId) (s : State), valid s a = true → valid s b = true → prec s a = prec s b →
    Answers (.intersect a b) s 0)

/-! ### CREATE -/

/-- CREATE with a legal count: the new bank, the response, and everything else unchanged (R88, R89, R91). -/
def Obligations.CreateBuildsAnEmptyEstimator : Prop :=
  ∀ (d : BankId) (m : Imm) (s : State) (b : Nat), 4 ≤ b → b ≤ 18 → m.toNat = 2 ^ b →
    ∃ t, exec (.create d m) s = .next t ∧ t.rspLatch = 0 ∧ valid t d = true ∧ prec t d = some b ∧
      (∀ i, cell t d i = if i < 2 ^ b then some 0 else none) ∧
      (∀ k, k ≠ d → bank t k = bank s k) ∧ ControlUnchanged s t

/-- CREATE with any other count answers InvalidRegisterCount and leaves everything as it was (R88). -/
def Obligations.CreateRefusesOtherCounts : Prop :=
  ∀ (d : BankId) (m : Imm) (s : State), (¬ ∃ b, 4 ≤ b ∧ b ≤ 18 ∧ m.toNat = 2 ^ b) →
    exec (.create d m) s = .next { s with rspLatch := 0x100000000000000000 }

/-! ### ADD -/

/-- R95: the two fields of the hash. -/
def Obligations.HashSplitsIntoIndexAndResidual : Prop :=
  ∀ (h : Imm) (b : Nat), 4 ≤ b → b ≤ 18 →
    14 ≤ residWidth b ∧ residWidth b ≤ 28 ∧ b + residWidth b = 32 ∧
    hashIndex h b < 2 ^ b ∧ resid h b < 2 ^ residWidth b ∧
    h.toNat = hashIndex h b * 2 ^ residWidth b + resid h b ∧
    hashIndex h b = (h.extractLsb' (32 - b) b).toNat ∧
    resid h b = (h.extractLsb' 0 (32 - b)).toNat

/-- R98: the leading-zero-count unit, as consecutive 0 bits from the top of the residual, which is bit 31 - b of the hash,
down to the first 1; the index bits play no part. -/
def Obligations.LeadingZerosAreCountedInTheResidual : Prop :=
  (∀ width v : Nat, v < 2 ^ width →
    clz width v ≤ width ∧ clz width 0 = width ∧
    (∀ j, j < width → width - clz width v ≤ j → v.testBit j = false) ∧
    (v ≠ 0 → clz width v < width ∧ v.testBit (width - 1 - clz width v) = true ∧ clz width v = width - 1 - msb v ∧
      2 ^ msb v ≤ v ∧ v < 2 ^ (msb v + 1))) ∧
  (∀ (h : Imm) (b j : Nat), 4 ≤ b → b ≤ 18 → (resid h b).testBit j = (decide (j ≤ 31 - b) && h.getLsbD j))

/-- The other datapath for the count: one shift, one 32-bit count, one clamp (R99). -/
def Obligations.LeadingZeroDatapathsAgree : Prop :=
  ∀ (h : Imm) (b : Nat), 4 ≤ b → b ≤ 18 →
    clz (32 - b) (resid h b) = min (clz 32 ((h.toNat <<< b) % 2 ^ 32)) (32 - b)

/-- The range of the rank and where its ends are reached (R101). -/
def Obligations.RankStaysInItsRange : Prop :=
  ∀ (h : Imm) (b : Nat), 4 ≤ b → b ≤ 18 →
    1 ≤ rank h b ∧ rank h b ≤ 33 - b ∧ rank h b < 2 ^ 6 ∧
    (rank h b = 1 ↔ h.getLsbD (31 - b) = true) ∧
    (rank h b = 33 - b ↔ resid h b = 0)

/-- ADD on a valid bank: its one cell rises to the maximum of its value and the rank, and everything else is unchanged
(R102, R104); in a legal bank the index is never out of range (R44). -/
def Obligations.AddRaisesItsCellToTheRank : Prop :=
  ∀ (d : BankId) (h : Imm) (s : State) (e : Estimator), bank s d = some e →
    ∃ t, exec (.add d h) s = .next t ∧ t.rspLatch = 0 ∧ prec t d = prec s d ∧
      (cell t d (h.toNat / 2 ^ (32 - e.b.toNat))).map BitVec.toNat =
        (cell s d (h.toNat / 2 ^ (32 - e.b.toNat))).map (fun v => max v.toNat (rank h e.b.toNat)) ∧
      (∀ j, j ≠ h.toNat / 2 ^ (32 - e.b.toNat) → cell t d j = cell s d j) ∧
      (∀ k, k ≠ d → bank t k = bank s k) ∧ ControlUnchanged s t ∧
      (e.ok = true → (cell s d (h.toNat / 2 ^ (32 - e.b.toNat))).isSome = true)

/-- Adding the same hash any number of times gives the state of adding it once (R105). -/
def Obligations.AddIsIdempotent : Prop :=
  ∀ (d : BankId) (h : Imm) (s : State), valid s d = true →
    ∃ t, exec (.add d h) s = .next t ∧ ∀ n, execList (List.replicate (n + 1) (.add d h)) s = some t

/-- Two ADDs to one bank commute (R106). -/
def Obligations.AddsCommute : Prop :=
  ∀ (d : BankId) (h₁ h₂ : Imm) (s : State), valid s d = true →
    ∃ t, execList [.add d h₁, .add d h₂] s = some t ∧ execList [.add d h₂, .add d h₁] s = some t

/-- R26, R106: after CREATE and any list of ADDs, each cell is the maximum of 0 and the ranks of the hashes added
to it, so the state depends on the set of hashes only. -/
def Obligations.BankHoldsTheMaximaOfItsHashes : Prop :=
  ∀ (d : BankId) (m : Imm) (b : Nat) (s : State) (hs : List Imm), 4 ≤ b → b ≤ 18 → m.toNat = 2 ^ b →
    ∃ t, execList (.create d m :: hs.map (.add d)) s = some t ∧ prec t d = some b ∧
      (∀ i, i < 2 ^ b → (cell t d i).map BitVec.toNat =
        some (((hs.filter fun h => hashIndex h b = i).map fun h => rank h b).foldr max 0)) ∧
      ∀ hs' : List Imm, (∀ h, h ∈ hs' ↔ h ∈ hs) → execList (.create d m :: hs'.map (.add d)) s = some t

/-! ### COUNT and the engine -/

/-- COUNT of a legal bank answers its estimate, whole, and changes nothing else (R142). -/
def Obligations.CountAnswersTheEstimate : Prop :=
  ∀ (a : BankId) (s : State) (e : Estimator), bank s a = some e → e.ok = true →
    ∃ t, exec (.count a) s = .next t ∧ t = { s with rspLatch := t.rspLatch } ∧
      rspStatus t.rspLatch = 0 ∧ rspZeros t.rspLatch = 0 ∧
      rspSat t.rspLatch = BitVec.ofBool (estimate e.b.toNat e.regs).sat ∧
      (rspValue t.rspLatch).toNat = (estimate e.b.toNat e.regs).value

/-- COUNT is pure, and repeats its answer while no successful command writes the bank (R143). -/
def Obligations.CountIsPureAndRepeatable : Prop :=
  (∀ (a : BankId) (s t : State), exec (.count a) s = .next t → t = { s with rspLatch := t.rspLatch }) ∧
  (∀ (a : BankId) (is : List Instr) (s t₁ t₂ t₃ : State), exec (.count a) s = .next t₁ →
    NoneSucceeds (fun i => dest i == some a) is t₁ → execList is t₁ = some t₂ → exec (.count a) t₂ = .next t₃ →
    t₃.rspLatch = t₁.rspLatch)

/-- R121: the power unit and the Z accumulator, which holds Z * 2^32 exactly in every legal bank, within its range. -/
def Obligations.ZAccumulatorIsExact : Prop :=
  (∀ r : RegCell, r.toNat ≤ 32 → powerUnit r = 2 ^ (32 - r.toNat)) ∧
  (∀ r : RegCell, 33 ≤ r.toNat → powerUnit r = 0) ∧
  (∀ e : Estimator, e.ok = true →
    (zAcc e.regs : ℚ) = Reference.indicatorSum e.regs * 2 ^ 32 ∧
    2 ^ (2 * e.b.toNat - 1) ≤ zAcc e.regs ∧ zAcc e.regs ≤ 2 ^ (e.b.toNat + 32) ∧
    2 ^ (e.b.toNat + 32) ≤ 2 ^ 50 ∧ zAcc e.regs < 2 ^ 51)

/-- R125: the saturation predicate says exactly E0 >= 2^32, the engine then answers CNT_SAT with SAT = 1, and ZACC = 0,
which also saturates, does not occur in a legal bank. -/
def Obligations.SaturationIsExact : Prop :=
  (∀ a b zacc : Nat, satP a b zacc = true ↔ (zacc = 0 ∨ zacc <<< 32 ≤ numerator a b)) ∧
  (∀ a b zacc : Nat, 0 < zacc → (satP a b zacc = true ↔ (2 : ℚ) ^ 32 ≤ (numerator a b : ℚ) / zacc)) ∧
  (∀ (a : BitVec 32) (b : Nat) (regs : List RegCell), satP a.toNat b (zAcc regs) = true →
    estimateWith a b regs = ⟨2 ^ 64 - 1, true⟩) ∧
  (∀ e : Estimator, e.ok = true → zAcc e.regs ≠ 0)

/-- The two range predicates are exact on the rational raw estimate (R126, R127). -/
def Obligations.RangePredicatesAreExact : Prop :=
  ∀ a b zacc : Nat, 0 < zacc →
    (smallP a b zacc = true ↔ (numerator a b : ℚ) / zacc ≤ 5 / 2 * 2 ^ b) ∧
    (largeP a b zacc = true ↔ (2 : ℚ) ^ 32 / 30 < (numerator a b : ℚ) / zacc)

/-- Refinement (R139): whatever the alpha word, on every legal bank the engine takes exactly the path of the reference
definition, and on the raw path its value is exactly COUNT_REF. The reference's alpha (the word over 2^32), its rounding and its
being total are the model's reading (assumption 10, DEDUCED). -/
def Obligations.EngineFollowsTheReference : Prop :=
  ∀ (a : BitVec 32) (e : Estimator), e.ok = true →
    let alpha : ℚ := a.toNat / 2 ^ 32
    let e0 := Reference.rawEstimate alpha e.b.toNat e.regs
    let path := choosePath a.toNat e.b.toNat (zAcc e.regs) (vCnt e.regs)
    (path = .saturate ↔ 2 ^ 32 ≤ e0) ∧
    (path = .linear ↔ e0 ≤ 5 / 2 * 2 ^ e.b.toNat ∧ Reference.zeroCount e.regs ≠ 0) ∧
    (path = .large ↔ e0 < 2 ^ 32 ∧ 2 ^ 32 / 30 < e0) ∧
    (path = .raw → ((estimateWith a e.b.toNat e.regs).value : ℤ) = Reference.countRef alpha e.b.toNat e.regs)

/-- The logarithm unit approximates log2 from below, is exact on powers of two, and keeps its integer part (R129). -/
def Obligations.LogarithmUnitApproximatesFromBelow : Prop :=
  (∀ n : Nat, 1 ≤ n → n < 2 ^ 49 →
    (log2Q48 n : ℝ) ≤ Real.logb 2 n * 2 ^ 48 ∧ msb n <<< 48 ≤ log2Q48 n ∧ log2Q48 n < (msb n + 1) <<< 48) ∧
  (∀ k : Nat, k ≤ 48 → log2Q48 (2 ^ k) = k <<< 48)

/-- The range of the result, path by path (R138), for every alpha word and legal bank. The bounds on the linear and large
paths, and through them the one on every unsaturated value, rest on the constant LN2_Q48 (assumption 4, PRESUMED). -/
def Obligations.EstimateStaysInItsRange : Prop :=
  ∀ (a : BitVec 32) (e : Estimator), e.ok = true →
    let r := estimateWith a e.b.toNat e.regs
    let path := choosePath a.toNat e.b.toNat (zAcc e.regs) (vCnt e.regs)
    (r.sat = false → r.value < 2 ^ 38) ∧ (r.sat = true ↔ r.value = 2 ^ 64 - 1) ∧
    (path = .raw → 30 * r.value < 2 ^ 32 + 30) ∧
    (path = .linear → r.value < 3280000) ∧
    (path = .large → r.value < 143000000000)

/-- The empty estimator estimates 0, unsaturated, at every precision and for every alpha word (R144). -/
def Obligations.EmptyEstimatorEstimatesZero : Prop :=
  ∀ (a : BitVec 32) (b : Nat), 4 ≤ b → b ≤ 18 → estimateWith a b (List.replicate (2 ^ b) 0) = ⟨0, false⟩

/-- After a successful CREATE, and until an ADD or a MERGE into the bank succeeds, COUNT answers 0 (R90). -/
def Obligations.FreshBankCountsZero : Prop :=
  ∀ (d : BankId) (m : Imm) (is : List Instr) (s t u : State), exec (.create d m) s = .next t →
    rspStatus t.rspLatch = 0 → NoneSucceeds (fills d) is t → execList is t = some u →
    ∃ v, exec (.count d) u = .next v ∧ v.rspLatch = 0

/-- COUNT can fall after an ADD: from 44 to 22 on a run from reset (R146). The two values rest on the constants of assumption 4
(PRESUMED): 44 on LN2_Q48, 22 and the choice of path on the alpha word. -/
def Obligations.CountCanFallAfterAnAdd : Prop :=
  ∃ (is : List Instr) (h : Imm) (s t u v : State), execList is State.reset = some s ∧
    exec (.count 0) s = .next u ∧ (rspValue u.rspLatch).toNat = 44 ∧
    exec (.add 0 h) s = .next t ∧ exec (.count 0) t = .next v ∧ (rspValue v.rspLatch).toNat = 22

/-! ### MERGE -/

/-- MERGE of two valid banks of equal precision: the destination, checked for nothing, receives the cellwise maximum of the
sources as they stood, and everything else is unchanged (R156, R158). -/
def Obligations.MergeWritesTheUnion : Prop :=
  ∀ (d a b : BankId) (s : State), valid s a = true → valid s b = true → prec s a = prec s b →
    ∃ t, exec (.merge d a b) s = .next t ∧ t.rspLatch = 0 ∧ prec t d = prec s a ∧
      (∀ j v, (cell t d j).map BitVec.toNat = some v ↔
        ∃ x y, cell s a j = some x ∧ cell s b j = some y ∧ v = max x.toNat y.toNat) ∧
      (∀ k, k ≠ d → bank t k = bank s k) ∧ ControlUnchanged s t

/-- MERGE of a bank with itself copies it, and into itself changes no bank (R159, R160). -/
def Obligations.MergeOfABankWithItselfCopies : Prop :=
  ∀ (d a : BankId) (s : State), valid s a = true →
    ∃ t, exec (.merge d a a) s = .next t ∧ bank t d = bank s a ∧ (∀ k, k ≠ d → bank t k = bank s k) ∧
      (d = a → t.banks = s.banks)

/-- The algebra of the union: commutative, associative, idempotent, above both sources, and bounded as they are (R161). -/
def Obligations.UnionAlgebra : Prop :=
  (∀ (d a b : BankId) (s : State), exec (.merge d a b) s = exec (.merge d b a) s) ∧
  (∀ x y z : Estimator, (x.union y).union z = x.union (y.union z)) ∧
  (∀ x : Estimator, x.union x = x) ∧
  (∀ (x y : Estimator) (i : Nat) (v : RegCell), (x.union y).regs[i]? = some v →
    ∃ p q, x.regs[i]? = some p ∧ y.regs[i]? = some q ∧ p.toNat ≤ v.toNat ∧ q.toNat ≤ v.toNat) ∧
  (∀ x y : Estimator, x.ok = true → y.ok = true → x.b = y.b → (x.union y).ok = true)

/-- R161: MERGE of two banks built from two lists of hashes is the bank built from both lists. -/
def Obligations.MergeIsTheBankOfAllHashes : Prop :=
  ∀ (d a b : BankId) (m : Imm) (s : State) (as bs : List Imm), a ≠ b → validM m = true →
    ∃ t u, execList ([.create a m, .create b m] ++ as.map (.add a) ++ bs.map (.add b) ++ [.merge d a b]) s = some t ∧
      execList (.create d m :: (as ++ bs).map (.add d)) s = some u ∧ bank t d = bank u d

/-! ### INTERSECT -/

/-- INTERSECT of two legal banks of equal precision: inclusion-exclusion over three estimates on integers, clamped at 0, SAT
the OR of the three, nothing else changed (R166 to R168). -/
def Obligations.IntersectAnswersInclusionExclusion : Prop :=
  ∀ (a b : BankId) (s : State) (x y : Estimator), bank s a = some x → bank s b = some y → x.b = y.b →
    x.ok = true → y.ok = true →
    let p := x.b.toNat
    let ea := estimate p x.regs
    let eb := estimate p y.regs
    let eu := estimate p (List.zipWith cellMax x.regs y.regs)
    ∃ t, exec (.intersect a b) s = .next t ∧ t = { s with rspLatch := t.rspLatch } ∧
      rspStatus t.rspLatch = 0 ∧ rspZeros t.rspLatch = 0 ∧
      ((rspValue t.rspLatch).toNat : ℤ) = max 0 ((ea.value : ℤ) + eb.value - eu.value) ∧
      rspSat t.rspLatch = BitVec.ofBool (ea.sat || eb.sat || eu.sat)

/-- The upper clamp of INTERSECT never acts: a saturated source saturates the union, and t stays in range (R167). The bounds on
unsaturated estimates that this uses rest on LN2_Q48 (assumption 4, PRESUMED). -/
def Obligations.UpperClampNeverActs : Prop :=
  ∀ x y : Estimator, x.ok = true → y.ok = true → x.b = y.b →
    (x.estimate.sat = true ∨ y.estimate.sat = true → (x.union y).estimate.sat = true) ∧
    ((x.union y).estimate.sat = true →
      overlap x.estimate.value y.estimate.value (x.union y).estimate.value ≤ max x.estimate.value y.estimate.value) ∧
    ((x.union y).estimate.sat = false →
      overlap x.estimate.value y.estimate.value (x.union y).estimate.value < 2 ^ 39)

/-- INTERSECT of two banks with equal content answers exactly what COUNT of either answers (R169). -/
def Obligations.IntersectOfEqualBanksIsTheirCount : Prop :=
  ∀ (a b : BankId) (s : State), BanksOk s → bank s a = bank s b →
    exec (.intersect a b) s = exec (.count a) s ∧ exec (.intersect a b) s = exec (.count b) s

/-- INTERSECT is symmetric and changes nothing but the response, in every state (R171). -/
def Obligations.IntersectIsSymmetricAndPure : Prop :=
  ∀ (a b : BankId) (s : State), exec (.intersect a b) s = exec (.intersect b a) s ∧
    ∃ t, exec (.intersect a b) s = .next t ∧ t = { s with rspLatch := t.rspLatch }

/-- Before any CREATE every other command is refused: with no valid bank, all but a legal CREATE answer an error (R205). -/
def Obligations.BeforeAnyCreateOnlyCreateSucceeds : Prop :=
  ∀ (w : CommandWord) (s t : State), (∀ k, valid s k = false) → execWord w s = .next t →
    (rspStatus t.rspLatch = 0 ↔ ∃ d m, decode w = .ok (.create d m) ∧ validM m = true)
end

