-- ==== Sys2Proof/Laws/Decode.lean ====
section
/-! SUPPORT. Taking the fields of an assembled word apart, and putting a word together from its fields. -/

namespace Sys2Proof

section Fields

variable (op : BitVec 4) (rd ra rb : BitVec 2) (imm : Imm)

theorem opField_assemble : opField (assemble op rd ra rb imm) = op := by
  apply BitVec.eq_of_getLsbD_eq; intro i hi
  simp only [opField, assemble, BitVec.getLsbD_extractLsb', BitVec.getLsbD_append]
  interval_cases i <;> simp

theorem rdField_assemble : rdField (assemble op rd ra rb imm) = rd := by
  apply BitVec.eq_of_getLsbD_eq; intro i hi
  simp only [rdField, assemble, BitVec.getLsbD_extractLsb', BitVec.getLsbD_append]
  interval_cases i <;> simp

theorem raField_assemble : raField (assemble op rd ra rb imm) = ra := by
  apply BitVec.eq_of_getLsbD_eq; intro i hi
  simp only [raField, assemble, BitVec.getLsbD_extractLsb', BitVec.getLsbD_append]
  interval_cases i <;> simp

theorem rbField_assemble : rbField (assemble op rd ra rb imm) = rb := by
  apply BitVec.eq_of_getLsbD_eq; intro i hi
  simp only [rbField, assemble, BitVec.getLsbD_extractLsb', BitVec.getLsbD_append]
  interval_cases i <;> simp

theorem rsvField_assemble : rsvField (assemble op rd ra rb imm) = 0 := by
  apply BitVec.eq_of_getLsbD_eq; intro i hi
  simp only [rsvField, assemble, BitVec.getLsbD_extractLsb', BitVec.getLsbD_append]
  interval_cases i <;> simp

theorem immField_assemble : immField (assemble op rd ra rb imm) = imm := by
  apply BitVec.eq_of_getLsbD_eq; intro i hi
  simp only [immField, assemble, BitVec.getLsbD_extractLsb', BitVec.getLsbD_append]
  interval_cases i <;> simp

end Fields

/-- A word is its six fields side by side (R61). -/
theorem word_eq_fields (w : CommandWord) :
    w = opField w ++ rdField w ++ raField w ++ rbField w ++ rsvField w ++ immField w := by
  apply BitVec.eq_of_getLsbD_eq; intro i hi
  simp only [opField, rdField, raField, rbField, rsvField, immField, BitVec.getLsbD_append, BitVec.getLsbD_extractLsb']
  interval_cases i <;> simp

/-- A word with RSV = 0 is assembled from its other five fields. -/
theorem assemble_fields (w : CommandWord) (h : rsvField w = 0) :
    assemble (opField w) (rdField w) (raField w) (rbField w) (immField w) = w := by
  conv => rhs; rw [word_eq_fields w, h]
  rfl

@[simp] theorem bankOf_bankBits (k : BankId) : bankOf (bankBits k) = k := rfl
@[simp] theorem bankBits_bankOf (k : BitVec 2) : bankBits (bankOf k) = k := rfl

/-- `accept` gives back its command exactly when the unused fields are zero. -/
theorem accept_eq_ok {z : Bool} {i j : Instr} : accept z i = .ok j ↔ z = true ∧ i = j := by
  unfold accept; cases z <;> simp

/-- What the decoder accepts, and as what (R62 to R64): the one lemma later proofs need of `decode`. -/
theorem decode_ok_iff (w : CommandWord) (i : Instr) : decode w = .ok i ↔ rsvField w = 0 ∧
   ((opField w = 1 ∧ raField w = 0 ∧ rbField w = 0 ∧ i = .create (bankOf (rdField w)) (immField w)) ∨
    (opField w = 2 ∧ raField w = 0 ∧ rbField w = 0 ∧ i = .add (bankOf (rdField w)) (immField w)) ∨
    (opField w = 3 ∧ rdField w = 0 ∧ rbField w = 0 ∧ immField w = 0 ∧ i = .count (bankOf (raField w))) ∨
    (opField w = 4 ∧ immField w = 0 ∧ i = .merge (bankOf (rdField w)) (bankOf (raField w)) (bankOf (rbField w))) ∨
    (opField w = 5 ∧ rdField w = 0 ∧ immField w = 0 ∧ i = .intersect (bankOf (raField w)) (bankOf (rbField w)))) := by
  have key : ∀ k : Nat, k < 16 → ((opField w).toNat = k ↔ opField w = BitVec.ofNat 4 k) := by
    intro k hk
    rw [BitVec.toNat_eq]; simp [Nat.mod_eq_of_lt hk]
  by_cases hr : rsvField w = 0
  · unfold decode
    simp only [hr, bne_self_eq_false, Bool.false_eq_true, if_false, true_and]
    split
    case h_6 h1 h2 h3 h4 h5 =>
      simp only [reduceCtorEq, false_iff, not_or, not_and]
      refine ⟨?_, ?_, ?_, ?_, ?_⟩ <;> intro e <;> exfalso <;> rw [e] at h1 h2 h3 h4 h5 <;> simp at *
    all_goals rename_i h
    all_goals (rw [key _ (by norm_num)] at h)
    all_goals simp only [accept_eq_ok, h, eq_comm (b := i)]
    all_goals simp [and_assoc]
  · have : decode w = .error .reservedFieldNonzero := by simp only [decode, bne_iff_ne, ne_eq, hr, not_false_iff, if_true]
    simp only [this, hr, false_and, iff_false]
    simp

end Sys2Proof
end

