-- ==== Sys2Proof/Laws/Estimate.lean ====
section
/-! SUPPORT. The estimate engine, path by path, and what its units can answer; later proofs cite these. -/

namespace Sys2Proof.Machine

theorem powerUnit_le (r : RegCell) : powerUnit r ≤ 2 ^ 32 := by
  unfold powerUnit
  exact Nat.shiftRight_le _ _

/-- The greater cell has the smaller power unit. -/
theorem powerUnit_anti {p q : RegCell} (h : p.toNat ≤ q.toNat) : powerUnit q ≤ powerUnit p := by
  unfold powerUnit
  simp only [Nat.shiftRight_eq_div_pow]
  exact Nat.div_le_div_left (Nat.pow_le_pow_right (by norm_num) h) (by positivity)

@[simp] theorem zAcc_nil : zAcc [] = 0 := rfl
@[simp] theorem zAcc_cons (r : RegCell) (rs : List RegCell) : zAcc (r :: rs) = powerUnit r + zAcc rs := by
  simp [zAcc]

section Paths

variable {a : BitVec 32} {b : Nat} {regs : List RegCell}

theorem estimateWith_saturate (h : choosePath a.toNat b (zAcc regs) (vCnt regs) = .saturate) :
    estimateWith a b regs = ⟨2 ^ 64 - 1, true⟩ := by
  simp [estimateWith, h]

theorem estimateWith_linear (h : choosePath a.toNat b (zAcc regs) (vCnt regs) = .linear) :
    estimateWith a b regs = ⟨roundQ16 (linearQ16 b (vCnt regs)), false⟩ := by
  simp [estimateWith, h]

theorem estimateWith_large (h : choosePath a.toNat b (zAcc regs) (vCnt regs) = .large) :
    estimateWith a b regs = ⟨roundQ16 (largeQ16 (e0Q16 a.toNat b (zAcc regs))), false⟩ := by
  simp [estimateWith, h]

theorem estimateWith_raw (h : choosePath a.toNat b (zAcc regs) (vCnt regs) = .raw) :
    estimateWith a b regs = ⟨roundQ16 (e0Q16 a.toNat b (zAcc regs)), false⟩ := by
  simp [estimateWith, h]

end Paths

theorem shiftLeft_one_or_one (n : Nat) : n <<< 1 ||| 1 = 2 * n + 1 := by
  have := Nat.two_pow_add_eq_or_of_lt (i := 1) (b := 1) (by norm_num) n
  rw [Nat.shiftLeft_eq, mul_comm]
  simpa using this.symm

/-- The k squarings of the logarithm unit append k bits (R129). -/
theorem log2Bits_bounds (k x n : Nat) : n * 2 ^ k ≤ log2Bits k x n ∧ log2Bits k x n < (n + 1) * 2 ^ k := by
  induction k generalizing x n with
  | zero => simp [log2Bits]
  | succ k ih =>
    simp only [log2Bits, shiftLeft_one_or_one]
    have hk := Nat.two_pow_pos k
    have h2 : n <<< 1 = 2 * n := by rw [Nat.shiftLeft_eq]; omega
    rw [h2, pow_succ 2 k]
    split
    · obtain ⟨h3, h4⟩ := ih (((x * x) >>> Config.f) >>> 1) (2 * n + 1)
      constructor <;> nlinarith
    · obtain ⟨h3, h4⟩ := ih ((x * x) >>> Config.f) (2 * n)
      constructor <;> nlinarith

/-- The logarithm's integer and fraction parts do not overlap (R129). -/
theorem log2Q48_eq_add (n : Nat) : log2Q48 n = msb n * 2 ^ 48 + log2Bits 48 (n <<< (48 - msb n)) 0 := by
  unfold log2Q48
  have h := (log2Bits_bounds 48 (n <<< (48 - msb n)) 0).2
  rw [Nat.shiftLeft_eq, mul_comm]
  exact (Nat.two_pow_add_eq_or_of_lt (by simpa using h) _).symm

end Sys2Proof.Machine
end

