-- ==== Sys2Proof/Laws/Flags.lean ====
section
/-! SUPPORT. The fields of the two kinds of response word (R68). -/

namespace Sys2Proof.Machine

section Fields

variable (status : BitVec 4) (sat : Bool) (value : Value)

@[simp] theorem rspStatus_responseWord : rspStatus (responseWord status sat value) = status := by
  apply BitVec.eq_of_getLsbD_eq; intro i hi
  simp only [rspStatus, responseWord, BitVec.getLsbD_extractLsb', BitVec.getLsbD_append]
  interval_cases i <;> simp

@[simp] theorem rspZeros_responseWord : rspZeros (responseWord status sat value) = 0 := by
  apply BitVec.eq_of_getLsbD_eq; intro i hi
  simp only [rspZeros, responseWord, BitVec.getLsbD_extractLsb', BitVec.getLsbD_append]
  interval_cases i <;> simp

@[simp] theorem rspSat_responseWord : rspSat (responseWord status sat value) = BitVec.ofBool sat := by
  apply BitVec.eq_of_getLsbD_eq; intro i hi
  simp only [rspSat, responseWord, BitVec.getLsbD_extractLsb', BitVec.getLsbD_append]
  interval_cases i
  simp

@[simp] theorem rspValue_responseWord : rspValue (responseWord status sat value) = value := by
  apply BitVec.eq_of_getLsbD_eq; intro i hi
  simp only [rspValue, responseWord, BitVec.getLsbD_extractLsb', BitVec.getLsbD_append]
  interval_cases i <;> simp

@[simp] theorem rspStatus_okWord : rspStatus (okWord sat value) = 0 := rspStatus_responseWord _ _ _
@[simp] theorem rspZeros_okWord : rspZeros (okWord sat value) = 0 := rspZeros_responseWord _ _ _
@[simp] theorem rspSat_okWord : rspSat (okWord sat value) = BitVec.ofBool sat := rspSat_responseWord _ _ _
@[simp] theorem rspValue_okWord : rspValue (okWord sat value) = value := rspValue_responseWord _ _ _

/-- The number a success response is (R72). -/
theorem okWord_toNat : (okWord sat value).toNat = sat.toNat <<< 64 ||| value.toNat := by
  simp only [okWord, responseWord, statusOk, BitVec.toNat_append]
  simp

end Fields

@[simp] theorem okWord_zero : okWord false 0#64 = 0#72 := by decide

@[simp] theorem rspStatus_zero : rspStatus 0#72 = 0#4 := by decide
@[simp] theorem rspZeros_zero : rspZeros 0#72 = 0#3 := by decide
@[simp] theorem rspSat_zero : rspSat 0#72 = 0#1 := by decide
@[simp] theorem rspValue_zero : rspValue 0#72 = 0#64 := by decide

variable (e : CommandError)

@[simp] theorem rspStatus_errorWord : rspStatus (errorWord e) = e.code := rspStatus_responseWord _ _ _
@[simp] theorem rspZeros_errorWord : rspZeros (errorWord e) = 0 := rspZeros_responseWord _ _ _
@[simp] theorem rspSat_errorWord : rspSat (errorWord e) = 0 := rspSat_responseWord _ _ _
@[simp] theorem rspValue_errorWord : rspValue (errorWord e) = 0 := rspValue_responseWord _ _ _

/-- No error has the status of a success (R69). -/
theorem code_ne_zero : e.code ≠ 0 := by cases e <;> decide

theorem code_le_four : e.code ≤ 4 := by cases e <;> decide

/-- The number an error response is (R72). -/
theorem errorWord_toNat : (errorWord e).toNat = e.code.toNat <<< 68 := by cases e <;> decide

end Sys2Proof.Machine
end

