-- ==== Sys2Proof/Laws/Operands.lean ====
section
/-! SUPPORT. What the operand units can answer: bounds of the rank and the index, and the algebra of the max-tracker. -/

namespace Sys2Proof.Machine

theorem clz_le (width v : Nat) : clz width v ≤ width := by
  unfold clz; split <;> omega

theorem rank_pos (h : Imm) (b : Nat) : 1 ≤ rank h b := by
  unfold rank; omega

theorem rank_le_rankMax (h : Imm) (b : Nat) : rank h b ≤ rankMax b := by
  have := clz_le (residWidth b) (resid h b)
  unfold rank rankMax residWidth at *; omega

/-- A rank fits a cell (R101). -/
theorem rank_lt_64 (h : Imm) (b : Nat) : rank h b < 64 := by
  have := rank_le_rankMax h b
  unfold rankMax at this
  simp only [Config.hashW] at this
  omega

@[simp] theorem rank_mod_64 (h : Imm) (b : Nat) : rank h b % 64 = rank h b := Nat.mod_eq_of_lt (rank_lt_64 h b)

theorem resid_lt (h : Imm) (b : Nat) : resid h b < 2 ^ residWidth b :=
  Nat.mod_lt _ (Nat.two_pow_pos _)

theorem hashIndex_lt (h : Imm) {b : Nat} (hb : b ≤ 32) : hashIndex h b < 2 ^ b := by
  have hlt := h.isLt
  unfold hashIndex residWidth
  rw [Nat.shiftRight_eq_div_pow]
  apply Nat.div_lt_of_lt_mul
  rw [← pow_add]
  rwa [show Config.hashW - b + b = Config.hashW from Nat.sub_add_cancel hb]

/-- The max-tracker's comparison is the maximum of the two numbers. -/
@[simp] theorem cellMax_toNat (x y : RegCell) : (cellMax x y).toNat = max x.toNat y.toNat := by
  unfold cellMax; split <;> omega

theorem cellMax_comm (x y : RegCell) : cellMax x y = cellMax y x := by
  apply BitVec.eq_of_toNat_eq; simp [max_comm]

theorem cellMax_assoc (x y z : RegCell) : cellMax (cellMax x y) z = cellMax x (cellMax y z) := by
  apply BitVec.eq_of_toNat_eq; simp [max_assoc]

@[simp] theorem cellMax_self (x : RegCell) : cellMax x x = x := by
  apply BitVec.eq_of_toNat_eq; simp

@[simp] theorem unionCells_self (xs : List RegCell) : unionCells xs xs = xs := by
  induction xs with
  | nil => rfl
  | cons x xs ih => simp_all [unionCells]

theorem unionCells_comm (xs ys : List RegCell) : unionCells xs ys = unionCells ys xs := by
  unfold unionCells
  rw [List.zipWith_comm]
  congr 1; funext x y; exact cellMax_comm y x

theorem length_unionCells (xs ys : List RegCell) :
    (unionCells xs ys).length = min xs.length ys.length := by
  simp [unionCells]

/-- A cell of the union is there when both cells are, and is their maximum (R156). -/
theorem getElem?_unionCells (xs ys : List RegCell) (i : Nat) :
    (unionCells xs ys)[i]? =
      match xs[i]?, ys[i]? with
      | some x, some y => some (cellMax x y)
      | _, _ => none := by
  simp only [unionCells, List.getElem?_zipWith]
  cases xs[i]? <;> cases ys[i]? <;> rfl

/-- What the max-tracker does to each cell (R102): the addressed one rises to the rank, the others stay. -/
theorem getElem?_track (e : Estimator) (i r j : Nat) :
    (e.track i r).regs[j]? =
      if i = j then (e.regs[j]?).map fun old => cellMax old (BitVec.ofNat 6 r) else e.regs[j]? := by
  simp only [Estimator.track, List.getElem?_modify]
  split <;> simp_all

/-- Two estimators of one precision with the same cells are one. -/
theorem Estimator.ext_cells {x y : Estimator} (hb : x.b = y.b)
    (hc : ∀ j : Nat, x.regs[j]? = y.regs[j]?) : x = y := by
  cases x
  cases y
  simp only [Estimator.mk.injEq]
  exact ⟨hb, List.ext_getElem? hc⟩

@[simp] theorem track_b (e : Estimator) (i r : Nat) : (e.track i r).b = e.b := rfl
@[simp] theorem length_track (e : Estimator) (i r : Nat) : (e.track i r).regs.length = e.regs.length := by
  simp [Estimator.track]

@[simp] theorem union_b (x y : Estimator) : (x.union y).b = x.b := rfl
@[simp] theorem union_self (x : Estimator) : x.union x = x := by
  cases x; simp [Estimator.union]

theorem union_comm (x y : Estimator) (h : x.b = y.b) : x.union y = y.union x := by
  simp [Estimator.union, h, unionCells_comm]

end Sys2Proof.Machine
end

