-- ==== Sys2Proof/Laws/State.lean ====
section
/-! SUPPORT. One lemma per field per update of the state, and the laws of reading and writing a bank. -/

namespace Sys2Proof.Machine

variable (s : State) (k : BankId) (e : Estimator) (w : CommandWord)

/-! The bank accessor. -/

@[simp] theorem bank_setBank_same : bank (setBank s k e) k = some e := by
  simp [bank, setBank]

theorem bank_setBank_ne {j : BankId} (h : j ≠ k) : bank (setBank s k e) j = bank s j := by
  have : k.val ≠ j.val := fun hv => h (Fin.ext hv.symm)
  simp [bank, setBank, Vector.getElem_set_ne, this]

theorem bank_setBank (j : BankId) :
    bank (setBank s k e) j = if j = k then some e else bank s j := by
  by_cases h : j = k
  · subst h; simp
  · simp [h, bank_setBank_ne s k e h]

@[simp] theorem bank_reset : bank State.reset k = none := by
  simp [bank, State.reset]

@[simp] theorem bank_with_rspLatch (r : ResponseWord) : bank { s with rspLatch := r } k = bank s k := rfl
@[simp] theorem bank_with_phase (p : Phase) : bank { s with phase := p } k = bank s k := rfl
@[simp] theorem bank_with_busyLeft (n : Nat) : bank { s with busyLeft := n } k = bank s k := rfl
@[simp] theorem bank_with_edges (es : List PortIn) : bank { s with edges := es } k = bank s k := rfl

/-- Two states hold the same banks when every bank reads the same. -/
theorem banks_ext {s t : State} (h : ∀ k, bank s k = bank t k) : s.banks = t.banks := by
  apply Vector.ext
  intro i hi
  exact h ⟨i, hi⟩

theorem bank_congr {s t : State} (h : s.banks = t.banks) : bank s k = bank t k := by
  simp [bank, h]

theorem valid_iff : valid s k = true ↔ ∃ e, bank s k = some e := by
  simp [valid, Option.isSome_iff_exists]

theorem not_valid_iff : valid s k = false ↔ bank s k = none := by
  simp [valid]

/-! `setBank` and the other fields. -/

@[simp] theorem setBank_phase : (setBank s k e).phase = s.phase := rfl
@[simp] theorem setBank_cmdLatch : (setBank s k e).cmdLatch = s.cmdLatch := rfl
@[simp] theorem setBank_rspLatch : (setBank s k e).rspLatch = s.rspLatch := rfl
@[simp] theorem setBank_busyLeft : (setBank s k e).busyLeft = s.busyLeft := rfl
@[simp] theorem setBank_busyPlan : (setBank s k e).busyPlan = s.busyPlan := rfl
@[simp] theorem setBank_edges : (setBank s k e).edges = s.edges := rfl

/-! `setResponse`. -/

theorem setResponse_eq (r : ResponseWord) : setResponse r s = { s with rspLatch := r } := rfl
@[simp] theorem setResponse_banks (r : ResponseWord) : (setResponse r s).banks = s.banks := rfl
@[simp] theorem setResponse_bank (r : ResponseWord) : bank (setResponse r s) k = bank s k := rfl
@[simp] theorem setResponse_phase (r : ResponseWord) : (setResponse r s).phase = s.phase := rfl
@[simp] theorem setResponse_cmdLatch (r : ResponseWord) : (setResponse r s).cmdLatch = s.cmdLatch := rfl
@[simp] theorem setResponse_rspLatch (r : ResponseWord) : (setResponse r s).rspLatch = r := rfl
@[simp] theorem setResponse_busyLeft (r : ResponseWord) : (setResponse r s).busyLeft = s.busyLeft := rfl
@[simp] theorem setResponse_busyPlan (r : ResponseWord) : (setResponse r s).busyPlan = s.busyPlan := rfl
@[simp] theorem setResponse_edges (r : ResponseWord) : (setResponse r s).edges = s.edges := rfl

/-- Only the last of two writes to one bank, and the last of two responses, are left. -/
@[simp] theorem setResponse_setBank_again (f : Estimator) (r r' : ResponseWord) :
    setResponse r (setBank (setResponse r' (setBank s k e)) k f) = setResponse r (setBank s k f) := by
  simp [setResponse, setBank, Vector.set]

/-! `passEdge`. -/

@[simp] theorem passEdge_banks : (passEdge s).banks = s.banks := rfl
@[simp] theorem passEdge_bank : bank (passEdge s) k = bank s k := rfl
@[simp] theorem passEdge_phase : (passEdge s).phase = s.phase := rfl
@[simp] theorem passEdge_cmdLatch : (passEdge s).cmdLatch = s.cmdLatch := rfl
@[simp] theorem passEdge_rspLatch : (passEdge s).rspLatch = s.rspLatch := rfl
@[simp] theorem passEdge_busyLeft : (passEdge s).busyLeft = s.busyLeft := rfl
@[simp] theorem passEdge_busyPlan : (passEdge s).busyPlan = s.busyPlan := rfl
@[simp] theorem passEdge_edges : (passEdge s).edges = s.edges.tail := rfl

/-! `resetCore`. -/

@[simp] theorem resetCore_bank : bank (resetCore s) k = none := bank_reset k
@[simp] theorem resetCore_phase : (resetCore s).phase = .idle := rfl
@[simp] theorem resetCore_cmdLatch : (resetCore s).cmdLatch = 0 := rfl
@[simp] theorem resetCore_rspLatch : (resetCore s).rspLatch = 0 := rfl
@[simp] theorem resetCore_busyLeft : (resetCore s).busyLeft = 0 := rfl
@[simp] theorem resetCore_busyPlan : (resetCore s).busyPlan = s.busyPlan := rfl
@[simp] theorem resetCore_edges : (resetCore s).edges = s.edges := rfl

/-! `acceptWord`. -/

@[simp] theorem acceptWord_banks : (acceptWord w s).banks = s.banks := rfl
@[simp] theorem acceptWord_bank : bank (acceptWord w s) k = bank s k := rfl
@[simp] theorem acceptWord_phase : (acceptWord w s).phase = .busy := rfl
@[simp] theorem acceptWord_cmdLatch : (acceptWord w s).cmdLatch = w := rfl
@[simp] theorem acceptWord_rspLatch : (acceptWord w s).rspLatch = s.rspLatch := rfl
@[simp] theorem acceptWord_busyLeft : (acceptWord w s).busyLeft = s.busyPlan.headD 0 := rfl
@[simp] theorem acceptWord_busyPlan : (acceptWord w s).busyPlan = s.busyPlan.tail := rfl
@[simp] theorem acceptWord_edges : (acceptWord w s).edges = s.edges := rfl

/-! `setPhase`. -/

@[simp] theorem setPhase_banks (p : Phase) : (setPhase p s).banks = s.banks := rfl
@[simp] theorem setPhase_phase (p : Phase) : (setPhase p s).phase = p := rfl
@[simp] theorem setPhase_cmdLatch (p : Phase) : (setPhase p s).cmdLatch = s.cmdLatch := rfl
@[simp] theorem setPhase_rspLatch (p : Phase) : (setPhase p s).rspLatch = s.rspLatch := rfl
@[simp] theorem setPhase_busyLeft (p : Phase) : (setPhase p s).busyLeft = s.busyLeft := rfl
@[simp] theorem setPhase_busyPlan (p : Phase) : (setPhase p s).busyPlan = s.busyPlan := rfl
@[simp] theorem setPhase_edges (p : Phase) : (setPhase p s).edges = s.edges := rfl
@[simp] theorem setPhase_bank (p : Phase) : bank (setPhase p s) k = bank s k := rfl

/-! `setBusyLeft`. -/

@[simp] theorem setBusyLeft_banks (n : Nat) : (setBusyLeft n s).banks = s.banks := rfl
@[simp] theorem setBusyLeft_phase (n : Nat) : (setBusyLeft n s).phase = s.phase := rfl
@[simp] theorem setBusyLeft_cmdLatch (n : Nat) : (setBusyLeft n s).cmdLatch = s.cmdLatch := rfl
@[simp] theorem setBusyLeft_rspLatch (n : Nat) : (setBusyLeft n s).rspLatch = s.rspLatch := rfl
@[simp] theorem setBusyLeft_busyLeft (n : Nat) : (setBusyLeft n s).busyLeft = n := rfl
@[simp] theorem setBusyLeft_busyPlan (n : Nat) : (setBusyLeft n s).busyPlan = s.busyPlan := rfl
@[simp] theorem setBusyLeft_edges (n : Nat) : (setBusyLeft n s).edges = s.edges := rfl
@[simp] theorem setBusyLeft_bank (n : Nat) : bank (setBusyLeft n s) k = bank s k := rfl

/-! `placeWord`. -/

@[simp] theorem placeWord_banks : (placeWord w s).banks = s.banks := rfl
@[simp] theorem placeWord_phase : (placeWord w s).phase = .busy := rfl
@[simp] theorem placeWord_cmdLatch : (placeWord w s).cmdLatch = w := rfl
@[simp] theorem placeWord_busyLeft : (placeWord w s).busyLeft = 0 := rfl
@[simp] theorem placeWord_sample : sample (placeWord w s) = PortIn.quiet := rfl
@[simp] theorem placeWord_passEdge :
    passEdge (placeWord w s) = { s with phase := .busy, cmdLatch := w, busyLeft := 0 } := rfl

end Sys2Proof.Machine
end

