-- ==== Sys2Proof/Laws/Ops.lean ====
section
/-! SUPPORT. What the shared operations, each meaning and `exec` can answer, said once; later proofs cite these. -/

namespace Sys2Proof.Machine

variable {s t : State} {a b d : BankId} {m h : Imm}

/-- `raise` always goes on, and its response is its whole effect. -/
theorem raise_eq (x : CommandError) (s : State) : raise x s = .next (setResponse (errorWord x) s) := rfl

theorem respond_eq (sat : Bool) (v : Value) (s : State) :
    respond sat v s = .next (setResponse (okWord sat v) s) := rfl

theorem withBank_some {k : BankId} {e : Estimator} (hb : bank s k = some e) (run : Estimator → Result) :
    withBank k s run = run e := by simp [withBank, hb]

theorem withBank_none {k : BankId} (hb : bank s k = none) (run : Estimator → Result) :
    withBank k s run = raise .notCreated s := by simp [withBank, hb]

/-- The four outcomes of the source checks, in their order (R182). -/
theorem withSources_eq (a b : BankId) (s : State) (run : Estimator → Estimator → Result) :
    withSources a b s run =
      match bank s a, bank s b with
      | some ea, some eb => if ea.b = eb.b then run ea eb else raise .sizeMismatch s
      | _, _ => raise .notCreated s := by
  unfold withSources withBank
  cases bank s a <;> cases bank s b <;> rfl

theorem withSources_ok {ea eb : Estimator} (ha : bank s a = some ea) (hb : bank s b = some eb) (he : ea.b = eb.b)
    (run : Estimator → Estimator → Result) : withSources a b s run = run ea eb := by
  simp [withSources_eq, ha, hb, he]

/-! The meanings. -/

theorem execCreate_ok (hm : validM m = true) (d : BankId) (s : State) :
    execCreate d m s = .next (setResponse (okWord false 0) (setBank s d (Estimator.fresh m.toNat))) := by
  simp [execCreate, hm, respond]

theorem execCreate_bad (hm : validM m = false) (d : BankId) (s : State) :
    execCreate d m s = .next (setResponse (errorWord .invalidRegisterCount) s) := by
  simp [execCreate, hm, raise]

theorem execAdd_ok {e : Estimator} (hb : bank s d = some e) (h : Imm) :
    execAdd d h s =
      .next (setResponse (okWord false 0) (setBank s d (e.track (hashIndex h e.b.toNat) (rank h e.b.toNat)))) := by
  simp [execAdd, withBank_some hb, respond]

theorem execCount_ok {e : Estimator} (hb : bank s a = some e) :
    execCount a s =
      .next (setResponse (okWord e.estimate.sat (BitVec.ofNat 64 e.estimate.value)) s) := by
  simp [execCount, withBank_some hb, respond]

theorem execMerge_ok {ea eb : Estimator} (ha : bank s a = some ea) (hb : bank s b = some eb) (he : ea.b = eb.b)
    (d : BankId) :
    execMerge d a b s = .next (setResponse (okWord false 0) (setBank s d (ea.union eb))) := by
  simp [execMerge, withSources_ok ha hb he, respond]

theorem execIntersect_ok {ea eb : Estimator} (ha : bank s a = some ea) (hb : bank s b = some eb) (he : ea.b = eb.b) :
    execIntersect a b s =
      .next (setResponse (okWord (ea.intersection eb).sat (BitVec.ofNat 64 (ea.intersection eb).value)) s) := by
  simp [execIntersect, withSources_ok ha hb he, respond]

/-! One inversion lemma for all commands. -/

/-- All that a command can do: raise an error and change nothing else, answer a value and change nothing else, or put one
new estimator into its destination bank and answer zero. -/
inductive ExecCases (i : Instr) (s t : State) : Prop where
  | error (x : CommandError) (ht : t = setResponse (errorWord x) s)
  | answer (sat : Bool) (v : Value) (hd : dest i = none) (ht : t = setResponse (okWord sat v) s)
  | write (k : BankId) (e : Estimator) (hd : dest i = some k)
      (ht : t = setResponse (okWord false 0) (setBank s k e))

theorem withSources_cases {i : Instr} {run : Estimator → Estimator → Result}
    (hrun : ∀ ea eb, bank s a = some ea → bank s b = some eb → ea.b = eb.b →
      ∃ t, run ea eb = .next t ∧ ExecCases i s t) :
    ∃ t, withSources a b s run = .next t ∧ ExecCases i s t := by
  rw [withSources_eq]
  cases ha : bank s a with
  | none => exact ⟨_, rfl, .error _ rfl⟩
  | some ea =>
    cases hb : bank s b with
    | none => exact ⟨_, rfl, .error _ rfl⟩
    | some eb =>
      by_cases he : ea.b = eb.b
      · simpa [he] using hrun ea eb ha hb he
      · exact ⟨_, by simp [he, raise_eq], .error .sizeMismatch rfl⟩

/-- Every command goes on, in one of the three ways. -/
theorem exec_total (i : Instr) (s : State) : ∃ t, exec i s = .next t ∧ ExecCases i s t := by
  cases i with
  | create d m =>
    cases hm : validM m with
    | true => exact ⟨_, execCreate_ok hm d s, .write d _ rfl rfl⟩
    | false => exact ⟨_, execCreate_bad hm d s, .error _ rfl⟩
  | add d h =>
    cases hb : bank s d with
    | none => exact ⟨_, by simp [exec, execAdd, withBank_none hb, raise_eq], .error .notCreated rfl⟩
    | some e => exact ⟨_, execAdd_ok hb h, .write d _ rfl rfl⟩
  | count a =>
    cases hb : bank s a with
    | none => exact ⟨_, by simp [exec, execCount, withBank_none hb, raise_eq], .error .notCreated rfl⟩
    | some e => exact ⟨_, execCount_ok hb, .answer _ _ rfl rfl⟩
  | merge d a b =>
    exact withSources_cases fun ea eb _ _ _ => ⟨_, rfl, .write d (ea.union eb) rfl rfl⟩
  | intersect a b =>
    exact withSources_cases fun ea eb _ _ _ => ⟨_, rfl, .answer _ _ rfl rfl⟩

theorem exec_cases {i : Instr} (hx : exec i s = .next t) : ExecCases i s t := by
  obtain ⟨u, hu, hc⟩ := exec_total i s
  rw [hx] at hu
  cases hu
  exact hc

/-- A command touches neither the phase, nor the command latch, nor the environment's fields. -/
theorem exec_frame {i : Instr} (hx : exec i s = .next t) :
    t.phase = s.phase ∧ t.cmdLatch = s.cmdLatch ∧ t.busyLeft = s.busyLeft ∧ t.busyPlan = s.busyPlan ∧
      t.edges = s.edges := by
  cases exec_cases hx with
  | error x ht => subst ht; simp
  | answer sat v hd ht => subst ht; simp
  | write k e hd ht => subst ht; simp

/-! Command words. -/

theorem execWord_ok {w : CommandWord} {i : Instr} (hd : decode w = .ok i) (s : State) : execWord w s = exec i s := by
  simp [execWord, hd]

theorem execWord_error {w : CommandWord} {x : IllegalWord} (hd : decode w = .error x) (s : State) :
    execWord w s = .next (setResponse (errorWord .illegalCommand) s) := by
  simp [execWord, hd, raise_eq]

theorem execWord_total (w : CommandWord) (s : State) : ∃ t, execWord w s = .next t := by
  cases hd : decode w with
  | ok i =>
    obtain ⟨t, ht, _⟩ := exec_total i s
    exact ⟨t, by rw [execWord_ok hd, ht]⟩
  | error x => exact ⟨_, execWord_error hd s⟩

theorem execWord_frame {w : CommandWord} (hx : execWord w s = .next t) :
    t.phase = s.phase ∧ t.cmdLatch = s.cmdLatch ∧ t.busyLeft = s.busyLeft ∧ t.busyPlan = s.busyPlan ∧
      t.edges = s.edges := by
  cases hd : decode w with
  | ok i => exact exec_frame (by rwa [execWord_ok hd] at hx)
  | error x =>
    rw [execWord_error hd] at hx
    cases hx
    simp

/-! One inversion lemma for a clock edge. -/

/-- All that a clock edge can do (R74, R200). -/
inductive StepCases (s t : State) : Prop where
  | reset (hr : (sample s).rst = true) (ht : t = resetCore (passEdge s))
  | idleWait (hr : (sample s).rst = false) (hp : s.phase = .idle) (hv : (sample s).cmdValid = false)
      (ht : t = passEdge s)
  | accept (hr : (sample s).rst = false) (hp : s.phase = .idle) (hv : (sample s).cmdValid = true)
      (ht : t = acceptWord (sample s).cmdData (passEdge s))
  | busyWait (n : Nat) (hr : (sample s).rst = false) (hp : s.phase = .busy) (hn : s.busyLeft = n + 1)
      (ht : t = setBusyLeft n (passEdge s))
  | finish (u : State) (hr : (sample s).rst = false) (hp : s.phase = .busy) (hn : s.busyLeft = 0)
      (hu : execWord s.cmdLatch (passEdge s) = .next u) (ht : t = setPhase .resp u)
  | respWait (hr : (sample s).rst = false) (hp : s.phase = .resp) (hv : (sample s).rspReady = false)
      (ht : t = passEdge s)
  | taken (hr : (sample s).rst = false) (hp : s.phase = .resp) (hv : (sample s).rspReady = true)
      (ht : t = setPhase .idle (passEdge s))

theorem step_total (s : State) : ∃ t, step s = .next t ∧ StepCases s t := by
  unfold step clockEdge
  cases hr : (sample s).rst with
  | true => exact ⟨_, rfl, .reset hr rfl⟩
  | false =>
    simp only [Bool.false_eq_true, if_false]
    cases hp : s.phase with
    | idle =>
      cases hv : (sample s).cmdValid with
      | false => exact ⟨_, by simp [idleEdge, hv], .idleWait hr hp hv rfl⟩
      | true => exact ⟨_, by simp [idleEdge, hv], .accept hr hp hv rfl⟩
    | busy =>
      cases hn : s.busyLeft with
      | zero =>
        obtain ⟨u, hu⟩ := execWord_total s.cmdLatch (passEdge s)
        exact ⟨_, by simp [busyEdge, hn, hu, offerResponse], .finish u hr hp hn hu rfl⟩
      | succ n => exact ⟨_, by simp [busyEdge, hn], .busyWait n hr hp hn rfl⟩
    | resp =>
      cases hv : (sample s).rspReady with
      | false => exact ⟨_, by simp [respEdge, hv], .respWait hr hp hv rfl⟩
      | true => exact ⟨_, by simp [respEdge, hv], .taken hr hp hv rfl⟩

theorem step_cases (hx : step s = .next t) : StepCases s t := by
  obtain ⟨u, hu, hc⟩ := step_total s
  rw [hx] at hu
  cases hu
  exact hc

end Sys2Proof.Machine
end

