-- ==== Sys2Proof/Laws/PerInstr.lean ====
section
/-! SUPPORT. Statements for all commands, one lemma per constructor of `Instr`. -/

namespace Sys2Proof.Laws.EncodeLegal

/-- A command is well formed, whatever its operands, and its encoding is a legal word with RSV = 0 (R61, R64). -/
def Statement (i : Instr) : Prop :=
  i.wellFormed = true ∧ legal (encode i) = true ∧ rsvField (encode i) = 0

theorem create (d : BankId) (m : Imm) : Statement (.create d m) := by
  simp [Statement, Instr.wellFormed, bankNumberOk, immediateOk, encode, legal, opField_assemble, rdField_assemble,
    raField_assemble, rbField_assemble, rsvField_assemble, immField_assemble]
  exact m.isLt

theorem add (d : BankId) (h : Imm) : Statement (.add d h) := by
  simp [Statement, Instr.wellFormed, bankNumberOk, immediateOk, encode, legal, opField_assemble, rdField_assemble,
    raField_assemble, rbField_assemble, rsvField_assemble, immField_assemble]
  exact h.isLt

theorem count (a : BankId) : Statement (.count a) := by
  simp [Statement, Instr.wellFormed, bankNumberOk, encode, legal, opField_assemble, rdField_assemble,
    raField_assemble, rbField_assemble, rsvField_assemble, immField_assemble]

theorem merge (d a b : BankId) : Statement (.merge d a b) := by
  simp [Statement, Instr.wellFormed, bankNumberOk, encode, legal, opField_assemble, rdField_assemble,
    raField_assemble, rbField_assemble, rsvField_assemble, immField_assemble]

theorem intersect (a b : BankId) : Statement (.intersect a b) := by
  simp [Statement, Instr.wellFormed, bankNumberOk, encode, legal, opField_assemble, rdField_assemble,
    raField_assemble, rbField_assemble, rsvField_assemble, immField_assemble]

end Sys2Proof.Laws.EncodeLegal
end

