-- ==== Sys2Proof/Laws/Safety.lean ====
section
/-! SUPPORT. Every operation that writes the register space keeps the estimators legal (R22, R23, R25), and both kinds of
response word are legal (R72). -/

namespace Sys2Proof.Machine

theorem ok_iff (e : Estimator) :
    e.ok = true ↔ 4 ≤ e.b.toNat ∧ e.b.toNat ≤ 18 ∧ e.regs.length = 2 ^ e.b.toNat ∧
      ∀ r ∈ e.regs, r.toNat ≤ rankMax e.b.toNat := by
  simp [Estimator.ok, and_assoc]

theorem responseOk_okWord (sat : Bool) (v : Value) : responseOk (okWord sat v) = true := by
  simp [responseOk]

theorem responseOk_errorWord (x : CommandError) : responseOk (errorWord x) = true := by
  cases x <;> decide

theorem fresh_b {m b : Nat} (hb : b ≤ 18) (hm : m = 2 ^ b) : (Estimator.fresh m).b.toNat = b := by
  subst hm
  simp only [Estimator.fresh, msb, Nat.log2_two_pow, BitVec.toNat_ofNat]
  omega

/-- What CREATE writes is legal. -/
theorem fresh_ok {m b : Nat} (h4 : 4 ≤ b) (hb : b ≤ 18) (hm : m = 2 ^ b) : (Estimator.fresh m).ok = true := by
  rw [ok_iff, fresh_b hb hm]
  refine ⟨h4, hb, by simp [Estimator.fresh, hm], ?_⟩
  intro r hr
  rw [List.eq_of_mem_replicate hr]
  exact Nat.zero_le _

/-- What ADD writes is legal. -/
theorem track_ok {e : Estimator} (he : e.ok = true) (i : Nat) (h : Imm) :
    (e.track i (rank h e.b.toNat)).ok = true := by
  rw [ok_iff] at *
  obtain ⟨h4, h18, hlen, hcells⟩ := he
  refine ⟨h4, h18, by simpa using hlen, ?_⟩
  intro r hr
  obtain ⟨j, hj⟩ := List.mem_iff_getElem?.1 hr
  rw [getElem?_track] at hj
  split at hj
  · cases hold : e.regs[j]? with
    | none => simp [hold] at hj
    | some old =>
      simp only [hold, Option.map_some, Option.some.injEq] at hj
      subst hj
      have := hcells old (List.mem_of_getElem? hold)
      have hr := rank_le_rankMax h e.b.toNat
      rw [cellMax_toNat, BitVec.toNat_ofNat, Nat.mod_eq_of_lt (show _ < 2 ^ 6 from rank_lt_64 h e.b.toNat)]
      exact max_le this hr
  · exact hcells r (List.mem_of_getElem? hj)

/-- What MERGE writes is legal (R161). -/
theorem union_ok {x y : Estimator} (hx : x.ok = true) (hy : y.ok = true) (hb : x.b = y.b) :
    (x.union y).ok = true := by
  rw [ok_iff] at *
  obtain ⟨h4, h18, hxl, hxc⟩ := hx
  obtain ⟨-, -, hyl, hyc⟩ := hy
  rw [← hb] at hyl hyc
  refine ⟨h4, h18, by simp [Estimator.union, length_unionCells, hxl, hyl], ?_⟩
  intro r hr
  obtain ⟨j, hj⟩ := List.mem_iff_getElem?.1 hr
  simp only [Estimator.union, getElem?_unionCells] at hj
  split at hj
  case h_1 p q hp hq =>
    cases hj
    simpa using ⟨hxc _ (List.mem_of_getElem? hp), hyc _ (List.mem_of_getElem? hq)⟩
  case h_2 => cases hj

end Sys2Proof.Machine
end

