-- ==== Sys2Proof/Tests/Slice0.lean ====
section
/-! SUPPORT. The model's own tests. Expected values are those of spec/95_test_vectors.md (its section is named at each test) or
of the rule named there. Then one theorem for every statement that has hypotheses, with a state and operands that meet them. -/

open Sys2Proof Sys2Proof.Machine

namespace Sys2Proof.Tests

/-- Bank k with precision 4 and these cells, the other banks invalid. -/
def oneBank (k : BankId) (regs : List RegCell) : State := setBank State.reset k ⟨4, regs⟩

/-- Banks 0 and 1 with precision 4 and these cells. -/
def twoBanks (xs ys : List RegCell) : State := setBank (oneBank 0 xs) 1 ⟨4, ys⟩

/-- The start state of section 9: bank 0 of precision 4, bank 1 of precision 5, banks 2 and 3 invalid. -/
def unequalBanks : State :=
  setBank (oneBank 0 (29 :: 28 :: List.replicate 13 0 ++ [1])) 1 ⟨5, List.replicate 32 0⟩

/-- The response to a command word. -/
def answer (w : CommandWord) (s : State) : Option ResponseWord :=
  match execWord w s with
  | .next t => some t.rspLatch
  | .fault _ => none
  | .refused _ => none

/-- The cells of bank k after a command word. -/
def cellsAfter (w : CommandWord) (k : BankId) (s : State) : Option (List RegCell) :=
  match execWord w s with
  | .next t => (bank t k).map Estimator.regs
  | .fault _ => none
  | .refused _ => none

/-- Sixteen cells, the same value v in each. -/
def level (v : RegCell) : List RegCell := List.replicate 16 v

/-- An edge with reset, an offered word and a host ready to take a response. -/
def resetEdge : PortIn := ⟨true, true, 0x3000000000000000, true⟩

/-- In BUSY with COUNT b3 latched and n further edges to go, the coming inputs as given. -/
def busyWith (n : Nat) (es : List PortIn) : State :=
  { oneBank 3 (level 1) with phase := .busy, cmdLatch := 0x3300000000000000, busyLeft := n, edges := es }

/-- In RESP with an OK response, the coming inputs as given. -/
def respWith (es : List PortIn) : State := { oneBank 3 (level 1) with phase := .resp, rspLatch := 22, edges := es }

/-! ### Operands that are none (R66, R75) -/

theorem test_bank_number_4_is_refused : bankNumberOk 3 = true ∧ bankNumberOk 4 = false := by decide
theorem test_immediate_2_to_32_is_refused :
    immediateOk (2 ^ 32 - 1) = true ∧ immediateOk (2 ^ 32) = false := by decide

/-! ### Words (section 3) -/

theorem test_decode_create :
    decode 0x1000000000000010 = .ok (.create 0 16) ∧ decode 0x1C00000000040000 = .ok (.create 3 262144) := by decide
theorem test_decode_add :
    decode 0x2000000012345678 = .ok (.add 0 0x12345678) ∧ decode 0x2C000000FFFFFFFF = .ok (.add 3 0xFFFFFFFF) := by
  decide
theorem test_decode_count :
    decode 0x3000000000000000 = .ok (.count 0) ∧ decode 0x3300000000000000 = .ok (.count 3) := by decide
theorem test_decode_merge :
    decode 0x4C40000000000000 = .ok (.merge 3 0 1) ∧ decode 0x46C0000000000000 = .ok (.merge 1 2 3) := by decide
theorem test_decode_intersect :
    decode 0x5040000000000000 = .ok (.intersect 0 1) ∧ decode 0x53C0000000000000 = .ok (.intersect 3 3) := by decide

/-- `CREATE b0, 7` is a legal word. -/
theorem test_decode_create_7_is_legal : decode 0x1000000000000007 = .ok (.create 0 7) := by decide

theorem test_illegal_opcodes :
    ([0x0000000000000000, 0x0000000000000010, 0x6000000000000000, 0xF000000000000000].map decode).all
      (· == .error .unassignedOpcode) = true := by decide
theorem test_illegal_reserved_field :
    ([0x1000000100000010, 0x2000200000000000, 0x3020000000000000, 0x4C40000100000000, 0xFFFFFFFFFFFFFFFF].map decode).all
      (· == .error .reservedFieldNonzero) = true := by decide
theorem test_illegal_unused_fields :
    ([0x1100000000000010, 0x1040000000000010, 0x2500000000000005, 0x2080000000000000, 0x3100000000000001,
      0x3400000000000000, 0x3040000000000000, 0x4C40000000000001, 0x5540000000000000, 0x5040000080000000].map decode).all
      (· == .error .unusedFieldNonzero) = true := by decide

theorem test_encode :
    encode (.create 1 2048) = 0x1400000000000800 ∧ encode (.add 3 0xFFFFFFFF) = 0x2C000000FFFFFFFF ∧
    encode (.count 3) = 0x3300000000000000 ∧ encode (.merge 1 2 3) = 0x46C0000000000000 ∧
    encode (.intersect 0 2) = 0x5080000000000000 := by decide

/-! ### Operand units (section 5) -/

theorem test_index_resid_rank_b4 :
    hashIndex 0xF0000000 4 = 15 ∧ resid 0x10000001 4 = 1 ∧ rank 0x10000001 4 = 28 ∧ rank 0 4 = 29 ∧
    rank 0x07FFFFFF 4 = 2 ∧ rank 0x08000000 4 = 1 := by decide
theorem test_index_resid_rank_others :
    hashIndex 0x12345678 7 = 9 ∧ rank 0x12345678 7 = 4 ∧ hashIndex 0xDEADBEEF 16 = 57005 ∧
    resid 0xDEADBEEF 12 = 0xDBEEF ∧ hashIndex 0xFFFFC001 18 = 262143 ∧ rank 0xFFFFC001 18 = 14 ∧ rank 0 18 = 15 := by
  decide

/-! ### The engine (sections 2 and 6) -/

/-- R123: from b = 7 on, the table is 7213 m / (10000 m + 10790), rounded to 32 fraction bits. -/
theorem test_alpha_table :
    (List.range 12).all (fun k => (alphaRom Config.hllc1 (k + 7)).toNat ==
      (2 * (7213 * 2 ^ (k + 7) * 2 ^ 32) + (10000 * 2 ^ (k + 7) + 10790)) / (2 * (10000 * 2 ^ (k + 7) + 10790))) = true := by
  decide
/-- R123: 673/1000, 697/1000 and 709/1000 for the three least precisions. -/
theorem test_alpha_table_small :
    [(4, 673), (5, 697), (6, 709)].all (fun p => (alphaRom Config.hllc1 p.1).toNat ==
      (2 * (p.2 * 2 ^ 32) + 1000) / 2000) = true := by decide
theorem test_log2 :
    log2Q48 1 = 0 ∧ log2Q48 3 = 0x195C01A39FBD6 ∧ log2Q48 13 = 0x3B35004723C46 ∧
    log2Q48 (2 ^ 48 - 1) = 0x2FFFFFFFFFFFFE ∧ log2Q48 (2 ^ 47 + 1) = 0x2F000000000002 := by decide +kernel
theorem test_linear : roundQ16 (linearQ16 18 3) = 2982684 ∧ roundQ16 (linearQ16 11 1024) = 1420 := by decide +kernel
theorem test_estimate_paths :
    estimate 4 (List.replicate 4 0 ++ List.replicate 5 4 ++ List.replicate 7 29) = ⟨22, false⟩ ∧
    estimate 4 (List.replicate 4 0 ++ List.replicate 4 4 ++ List.replicate 8 29) = ⟨41, false⟩ ∧
    estimate 4 (List.replicate 5 23 ++ List.replicate 11 24) = ⟨137643476, false⟩ ∧
    estimate 4 (List.replicate 4 23 ++ List.replicate 12 24) = ⟨147013258, false⟩ := by decide +kernel
theorem test_estimate_saturation :
    estimate 4 (List.replicate 6 28 ++ List.replicate 10 29) = ⟨16573905892, false⟩ ∧
    estimate 4 (List.replicate 5 28 ++ List.replicate 11 29) = ⟨2 ^ 64 - 1, true⟩ := by decide +kernel

/-! ### Commands (sections 4 to 9), one step each -/

theorem test_create_32 :
    answer 0x1400000000000020 State.reset = some 0 ∧
    cellsAfter 0x1400000000000020 1 State.reset = some (List.replicate 32 0) := by decide
theorem test_create_48_keeps_the_bank :
    answer 0x1000000000000030 unequalBanks = some 0x100000000000000000 ∧
    cellsAfter 0x1000000000000030 0 unequalBanks = (bank unequalBanks 0).map Estimator.regs := by decide
theorem test_add_raises :
    answer 0x2000000010000400 (oneBank 0 (0 :: 2 :: List.replicate 14 5)) = some 0 ∧
    cellsAfter 0x2000000010000400 0 (oneBank 0 (0 :: 2 :: List.replicate 14 5)) =
      some (0 :: 18 :: List.replicate 14 5) := by decide
theorem test_add_keeps_the_greater :
    cellsAfter 0x2000000018000000 0 (oneBank 0 (0 :: 18 :: List.replicate 14 0)) =
      some (0 :: 18 :: List.replicate 14 0) := by decide
theorem test_count_44_before : answer 0x3000000000000000 (oneBank 0 (List.replicate 15 1 ++ [0])) = some 44 := by
  decide +kernel
theorem test_count_saturated :
    answer 0x3000000000000000 (oneBank 0 (level 29)) = some 0x01FFFFFFFFFFFFFFFF := by decide +kernel
theorem test_merge_in_place :
    answer 0x4040000000000000 (twoBanks [0, 1, 5, 29, 0, 7] [0, 2, 4, 0, 29, 7]) = some 0 ∧
    cellsAfter 0x4040000000000000 0 (twoBanks [0, 1, 5, 29, 0, 7] [0, 2, 4, 0, 29, 7]) = some [0, 2, 5, 29, 29, 7] := by
  decide
theorem test_merge_not_created_comes_first :
    answer 0x4E40000000000000 unequalBanks = some 0x300000000000000000 ∧
    answer 0x4840000000000000 unequalBanks = some 0x200000000000000000 := by decide
theorem test_intersect_14 :
    answer 0x5040000000000000
      (twoBanks [0, 1, 5, 29, 0, 7, 7, 3, 0, 0, 12, 1, 28, 0, 2, 9] [0, 2, 4, 0, 29, 7, 8, 2, 1, 0, 11, 1, 29, 0, 2, 10]) =
      some 14 := by decide +kernel
theorem test_intersect_clamps_and_saturates :
    answer 0x5040000000000000
      (twoBanks (List.replicate 5 1 ++ List.replicate 11 0) (List.replicate 5 0 ++ List.replicate 5 1 ++ List.replicate 6 0)) =
      some 0 ∧
    answer 0x5040000000000000 (twoBanks (level 29) (level 3)) = some 0x010000000000000056 := by decide +kernel
theorem test_illegal_before_size_mismatch :
    answer 0x4840000000000001 unequalBanks = some 0x400000000000000000 := by decide

/-! ### Clock edges -/

/-- A word placed by `withFetchWord` is executed by the very next step. -/
theorem test_step_runs_the_placed_word :
    step (State.reset.withFetchWord 64 0x1C00000000000010) =
      .next { setBank State.reset 3 ⟨4, level 0⟩ with phase := .resp, cmdLatch := 0x1C00000000000010 } := rfl
theorem test_reset_wins_over_both_handshakes :
    step (respWith [resetEdge]) = .next State.reset ∧ acceptedAt { State.reset with edges := [resetEdge] } = none :=
  ⟨rfl, by decide⟩

/-! ### The hypotheses of each statement are met

`test_met_<statement>`: a state and operands that meet the statement's hypotheses, one for each clause that has its own. -/

theorem test_met_DecodeReadsBackEveryEncoding :
    ∀ i ∈ [Instr.create 3 0xFFFFFFFF, .add 0 0, .count 3, .merge 3 3 3, .intersect 0 3], i.wellFormed = true := by decide

theorem test_met_EveryCommandWordIsItsEncoding : ∃ w i, decode w = .ok i := ⟨0x4FC0000000000000, .merge 3 3 3, rfl⟩

theorem test_met_IllegalWordsAreRefusedInEveryState :
    (∀ p ∈ commandPatterns, ¬ Matches 0x6000000000000000 p) ∧
    (∃ p ∈ commandPatterns, Matches 0x53C0000000000000 p) ∧ ∃ t, execWord 0x53C0000000000000 State.reset = .next t :=
  ⟨by simp [commandPatterns, Matches], by simp [commandPatterns, Matches], _, rfl⟩

theorem test_met_StepRunsTheDecodedCommand :
    ((busyWith 0 []).phase = .busy ∧ (busyWith 0 []).busyLeft = 0 ∧ (sample (busyWith 0 [])).rst = false ∧
      decode (busyWith 0 []).cmdLatch = .ok (.count 3)) ∧
    decode 0xF000000000000000 = .error .unassignedOpcode ∧
    decodeTableWord 64 0xFC0000000000000000002C000000FFFFFFFF = some (.add 3 0xFFFFFFFF) :=
  ⟨by decide, rfl, rfl⟩

theorem test_met_HandshakeFollowsThePhases :
    (∀ s ∈ [State.reset, { State.reset with edges := sendWord 0 }, busyWith 0 [], busyWith 2 [], respWith [],
        respWith [⟨false, true, 0, true⟩]], (sample s).rst = false) ∧
    (sample State.reset).cmdValid = false ∧ (sample { State.reset with edges := sendWord 0 }).cmdValid = true ∧
    (busyWith 0 []).phase = .busy ∧ (busyWith 2 []).busyLeft ≠ 0 ∧ (respWith []).phase = .resp ∧
    (sample (respWith [])).rspReady = false ∧ (sample (respWith [⟨false, true, 0, true⟩])).rspReady = true := by decide

theorem test_met_ResetEdgeEmptiesTheCore :
    ∀ s ∈ [{ State.reset with edges := [resetEdge] }, busyWith 2 [resetEdge], respWith [resetEdge]],
      (sample s).rst = true := by decide

theorem test_met_HoldingResetChangesNothingMore :
    (∃ t, step (busyWith 0 [resetEdge, resetEdge]) = .next t ∧ (sample t).rst = true) ∧
    (∃ t, step (busyWith 0 (resetEdge :: sendWord 0)) = .next t ∧ (sample t).rst = false ∧ (sample t).cmdValid = true) ∧
    (∃ t, step (busyWith 0 [resetEdge]) = .next t ∧ (sample t).rst = false ∧ (sample t).cmdValid = false) ∧
    ∀ s ∈ [busyWith 0 [resetEdge, resetEdge], busyWith 0 (resetEdge :: sendWord 0), busyWith 0 [resetEdge]],
      (sample s).rst = true :=
  ⟨⟨_, rfl, by decide⟩, ⟨_, rfl, by decide⟩, ⟨_, rfl, by decide⟩, by decide⟩

theorem test_met_ResetDropsTheCommandInFlight :
    ((sample (busyWith 1 (resetEdge :: sendWord 0))).rst = true ∧ (busyWith 1 (resetEdge :: sendWord 0)).phase = .busy ∧
      ∃ t, step (busyWith 1 (resetEdge :: sendWord 0)) = .next t ∧ NoReset 3 t ∧
        takenResponses 3 t = [0x400000000000000000]) ∧
    (sample (respWith [resetEdge])).rst = true ∧ (respWith [resetEdge]).phase = .resp :=
  ⟨⟨by decide, by decide, _, rfl, by decide, by decide⟩, by decide, by decide⟩

theorem test_met_NothingSurvivesReset :
    (sample (busyWith 1 [resetEdge])).rst = true ∧ (sample (respWith [resetEdge])).rst = true ∧
    (busyWith 1 [resetEdge]).edges.tail = (respWith [resetEdge]).edges.tail ∧
    (busyWith 1 [resetEdge]).busyPlan = (respWith [resetEdge]).busyPlan ∧
    (∃ t, step (busyWith 1 [resetEdge]) = .next t) ∧ ∃ t, step (respWith [resetEdge]) = .next t :=
  ⟨by decide, by decide, by decide, by decide, ⟨_, rfl⟩, _, rfl⟩

theorem test_met_BusyEndsWithTheWholeEffect :
    (busyWith 2 (sendWord 0)).phase = .busy ∧ NoReset 3 (busyWith 2 (sendWord 0)) ∧
    (busyWith 0 []).phase = .busy ∧ NoReset 1 (busyWith 0 []) := by decide

/-- Two commands offered to an idle core, the first of which stays in BUSY for two more edges. -/
def twoCommands : State :=
  { State.reset with
    busyPlan := [2]
    edges := ⟨false, true, 0x1000000000000010, false⟩ :: List.replicate 3 PortIn.quiet ++
      ⟨false, false, 0, true⟩ :: sendWord 0x3000000000000000 }

/-- The same two commands with no wait. -/
def twoCommandsAtOnce : State :=
  { State.reset with edges := sendWord 0x1000000000000010 ++ sendWord 0x3000000000000000 }

theorem test_met_HandshakeDeliversTheResponsesOfExec :
    twoCommands.phase = .idle ∧ NoReset 8 twoCommands ∧ (stateAfter 8 twoCommands).map State.phase = some .idle ∧
    acceptedWords 8 twoCommands = [0x1000000000000010, 0x3000000000000000] ∧ takenResponses 8 twoCommands = [0, 0] := by
  decide +kernel

theorem test_met_ResponsesDependOnlyOnAcceptedWords :
    twoCommandsAtOnce.phase = .idle ∧ twoCommands.banks = twoCommandsAtOnce.banks ∧ NoReset 6 twoCommandsAtOnce ∧
    (stateAfter 6 twoCommandsAtOnce).map State.phase = some .idle ∧
    acceptedWords 8 twoCommands = acceptedWords 6 twoCommandsAtOnce := by decide +kernel

theorem test_met_LatchesAreNotSeenOutsideTheirPhase :
    SeenAlike State.reset { State.reset with cmdLatch := 1, rspLatch := 2, busyLeft := 3 } ∧
    SeenAlike (busyWith 1 []) { busyWith 1 [] with rspLatch := 2 } ∧
    SeenAlike (respWith []) { respWith [] with cmdLatch := 1, busyLeft := 3 } := by
  refine ⟨?_, ?_, ?_⟩ <;> decide

theorem test_met_EveryStepKeepsTheInvariant :
    (StateOk (busyWith 0 []) ∧ ∃ t, step (busyWith 0 []) = .next t) ∧ StateOk (respWith []) ∧
    StateOk (oneBank 0 (level 29)) ∧ ¬ StateOk (oneBank 0 (level 30)) ∧ ¬ StateOk (oneBank 0 (1 :: level 1)) :=
  ⟨⟨by decide, _, rfl⟩, by decide, by decide, by decide, by decide⟩

theorem test_met_OnlyResetInvalidatesABank :
    (∃ t, step (busyWith 0 []) = .next t) ∧ (sample (busyWith 0 [])).rst = false ∧ valid (busyWith 0 []) 3 = true :=
  ⟨⟨_, rfl⟩, by decide, by decide⟩

theorem test_met_BanksChangeOnlyThroughRd :
    (∃ t, execWord 0x1000000000000010 State.reset = .next t ∧ bank t 0 ≠ bank State.reset 0) ∧
    (∃ t, execWord 0x2000000000000000 (oneBank 0 (level 0)) = .next t ∧ bank t 0 ≠ bank (oneBank 0 (level 0)) 0) ∧
    ∃ t, execWord 0x4C00000000000000 (oneBank 0 (level 0)) = .next t ∧ bank t 3 ≠ bank (oneBank 0 (level 0)) 3 :=
  ⟨⟨_, rfl, by decide⟩, ⟨_, rfl, by decide⟩, _, rfl, by decide⟩

theorem test_met_ResponseWordsAreTheListedOnes : ∃ t, execWord 0x3000000000000000 State.reset = .next t := ⟨_, rfl⟩

/-- For ErrorsLeaveTheStateAsItWas and ErrorsHaveNoLaterEffect, with every error code. -/
theorem test_met_Errors :
    (∃ t, execWord 0x1000000000000030 unequalBanks = .next t ∧ rspStatus t.rspLatch = 1) ∧
    (∃ t, execWord 0x5100000000000000 unequalBanks = .next t ∧ rspStatus t.rspLatch = 2) ∧
    (∃ t, execWord 0x2800000000001234 unequalBanks = .next t ∧ rspStatus t.rspLatch = 3) ∧
    ∃ t, execWord 0x5380000000000001 unequalBanks = .next t ∧ rspStatus t.rspLatch = 4 :=
  ⟨⟨_, rfl, by decide⟩, ⟨_, rfl, by decide⟩, ⟨_, rfl, by decide⟩, _, rfl, by decide⟩

theorem test_met_StatusIsTheFirstFailingCheck :
    legal 0x1100000000000030 = false ∧ decode 0x1000000000000030 = .ok (.create 0 48) ∧
    decode 0x2800000000001234 = .ok (.add 2 0x1234) ∧ decode 0x3300000000000000 = .ok (.count 3) ∧
    decode 0x4E40000000000000 = .ok (.merge 3 2 1) ∧ decode 0x5100000000000000 = .ok (.intersect 1 0) ∧
    ∀ w : CommandWord, ∃ t, execWord w unequalBanks = .next t :=
  ⟨by decide, by decide, by decide, by decide, by decide, by decide, fun w => execWord_total w unequalBanks⟩

theorem test_met_InvalidRegisterCountIsRaisedExactly :
    ∃ t, exec (.create 0 8) State.reset = .next t ∧ rspStatus t.rspLatch = 1 := ⟨_, rfl, by decide⟩

theorem test_met_SizeMismatchIsRaisedExactly :
    ∃ t, exec (.merge 2 0 1) unequalBanks = .next t ∧ rspStatus t.rspLatch = 2 := ⟨_, rfl, by decide⟩

/-- For ValidBanksNeverFail, MergeWritesTheUnion, MergeOfABankWithItselfCopies, AddIsIdempotent and AddsCommute. -/
theorem test_met_ValidBanksNeverFail :
    valid (twoBanks (level 0) (level 29)) 0 = true ∧ valid (twoBanks (level 0) (level 29)) 1 = true ∧
    prec (twoBanks (level 0) (level 29)) 0 = prec (twoBanks (level 0) (level 29)) 1 := by decide

/-- For CreateBuildsAnEmptyEstimator, BankHoldsTheMaximaOfItsHashes and, in b alone, EmptyEstimatorEstimatesZero, at both ends of
the range. -/
theorem test_met_CreateBuildsAnEmptyEstimator :
    ((16 : Imm).toNat = 2 ^ 4) ∧ ((262144 : Imm).toNat = 2 ^ 18) := by decide

theorem test_met_CreateRefusesOtherCounts :
    ∀ m ∈ [(0 : Imm), 8, 17, 524288], ¬ ∃ b, 4 ≤ b ∧ b ≤ 18 ∧ m.toNat = 2 ^ b := by
  rintro m hm ⟨b, h4, h18, hb⟩
  simp only [List.mem_cons, List.not_mem_nil, or_false] at hm
  rcases hm with rfl | rfl | rfl | rfl <;> interval_cases b <;> simp at hb

/-- The clauses of LeadingZerosAreCountedInTheResidual at width 28: residual 0, least, greatest. -/
theorem test_met_LeadingZerosAreCountedInTheResidual :
    clz 28 0 = 28 ∧ clz 28 1 = 27 ∧ (1 : Nat).testBit 0 = true ∧ (1 : Nat) < 2 ^ 28 ∧
    clz 28 (2 ^ 28 - 1) = 0 ∧ 2 ^ 28 - 1 < 2 ^ 28 := by decide

/-- RankStaysInItsRange, HashSplitsIntoIndexAndResidual and LeadingZeroDatapathsAgree at b = 4 and b = 18 (section 5). -/
theorem test_met_RankStaysInItsRange :
    rank 0x08000000 4 = 1 ∧ (0x08000000 : Imm).getLsbD 27 = true ∧ rank 0xF0000000 4 = 29 ∧ resid 0xF0000000 4 = 0 ∧
    rank 0x00002000 18 = 1 ∧ (0x00002000 : Imm).getLsbD 13 = true ∧ rank 0x00004000 18 = 15 ∧ resid 0x00004000 18 = 0 := by
  decide

theorem test_met_AddRaisesItsCellToTheRank :
    ∃ e, bank (oneBank 0 (level 0)) 0 = some e ∧ e.ok = true := ⟨⟨4, level 0⟩, by decide, by decide⟩

/-- For CountAnswersTheEstimate, ZAccumulatorIsExact, EngineFollowsTheReference, EstimateStaysInItsRange and the last clause of
SaturationIsExact: a legal estimator on each of the four paths (section 6). -/
theorem test_met_EstimateStaysInItsRange :
    (∀ e ∈ [(⟨4, level 29⟩ : Estimator), ⟨4, List.replicate 15 1 ++ [0]⟩, ⟨4, level 24⟩, ⟨4, level 1⟩], e.ok = true) ∧
    choosePath 0xAC49BA5E 4 (zAcc (level 29)) (vCnt (level 29)) = .saturate ∧
    choosePath 0xAC49BA5E 4 (zAcc (List.replicate 15 1 ++ [0])) (vCnt (List.replicate 15 1 ++ [0])) = .linear ∧
    choosePath 0xAC49BA5E 4 (zAcc (level 24)) (vCnt (level 24)) = .large ∧
    choosePath 0xAC49BA5E 4 (zAcc (level 1)) (vCnt (level 1)) = .raw := by decide +kernel

theorem test_met_CountIsPureAndRepeatable :
    ∃ t₁ t₂ t₃, exec (.count 3) (oneBank 0 (level 0)) = .next t₁ ∧
      NoneSucceeds (fun i => dest i == some 3) [.add 3 5, .create 1 16, .add 3 7] t₁ ∧
      execList [.add 3 5, .create 1 16, .add 3 7] t₁ = some t₂ ∧ exec (.count 3) t₂ = .next t₃ := by
  refine ⟨_, _, _, rfl, ?_, rfl, rfl⟩
  exact ⟨_, rfl, by decide, _, rfl, by decide, _, rfl, by decide, trivial⟩

/-- ZAccumulatorIsExact and SaturationIsExact: the power unit at 32 and 33, the predicate on both sides of its threshold
(section 6.5: `ZACC <= 0xAC`) and at 0. -/
theorem test_met_SaturationIsExact :
    powerUnit 32 = 1 ∧ powerUnit 33 = 0 ∧ powerUnit 63 = 0 ∧ satP 0xAC49BA5E 4 0xAC = true ∧
    satP 0xAC49BA5E 4 0xAD = false ∧ satP 0xAC49BA5E 4 0 = true := by decide

/-- RangePredicatesAreExact on both sides of each threshold (section 6.5). -/
theorem test_met_RangePredicatesAreExact :
    smallP 0xAC49BA5E 4 0x44EA4A8C0 = true ∧ smallP 0xAC49BA5E 4 0x44EA4A8BF = false ∧
    largeP 0xAC49BA5E 4 0x1430 = true ∧ largeP 0xAC49BA5E 4 0x1431 = false := by decide

/-- LogarithmUnitApproximatesFromBelow at the ends of its range (section 2). -/
theorem test_met_LogarithmUnitApproximatesFromBelow :
    log2Q48 (2 ^ 0) = 0 ∧ log2Q48 (2 ^ 48) = 48 <<< 48 ∧ msb (2 ^ 49 - 1) = 48 ∧ log2Q48 (2 ^ 49 - 1) < 49 <<< 48 := by
  decide +kernel

theorem test_met_FreshBankCountsZero :
    ∃ t u, exec (.create 0 16) State.reset = .next t ∧ rspStatus t.rspLatch = 0 ∧
      NoneSucceeds (fills 0) [.create 1 16, .add 1 5, .merge 0 1 2, .create 0 32] t ∧
      execList [.create 1 16, .add 1 5, .merge 0 1 2, .create 0 32] t = some u := by
  refine ⟨_, _, rfl, by decide, ?_, rfl⟩
  exact ⟨_, rfl, by decide, _, rfl, by decide, _, rfl, by decide, _, rfl, by decide, trivial⟩

/-- Section 6.2 and program P5: the two counts of CountCanFallAfterAnAdd. -/
theorem test_count_44_then_22 :
    estimate 4 (List.replicate 15 1 ++ [0]) = ⟨44, false⟩ ∧ estimate 4 (level 1) = ⟨22, false⟩ := by decide +kernel

theorem test_met_UnionAlgebra :
    (⟨4, level 29⟩ : Estimator).ok = true ∧ (⟨4, level 0⟩ : Estimator).ok = true ∧
    ((⟨4, level 29⟩ : Estimator).union ⟨4, level 0⟩).regs[15]? = some 29 := by decide

theorem test_met_MergeIsTheBankOfAllHashes :
    (0 : BankId) ≠ 1 ∧ validM 16 = true ∧ validM 262144 = true := by decide +kernel

/-- For IntersectAnswersInclusionExclusion and UpperClampNeverActs: no source saturates, one does, and neither does but the
union does (section 6.5: `28 x 8, 29 x 8` against its mirror image has the union `29 x 16`). -/
theorem test_met_UpperClampNeverActs :
    (∀ e ∈ [(⟨4, level 29⟩ : Estimator), ⟨4, level 3⟩, ⟨4, List.replicate 8 28 ++ List.replicate 8 29⟩,
      ⟨4, List.replicate 8 29 ++ List.replicate 8 28⟩], e.ok = true) ∧
    ((⟨4, level 29⟩ : Estimator).estimate).sat = true ∧ ((⟨4, level 3⟩ : Estimator).estimate).sat = false ∧
    ((⟨4, List.replicate 8 28 ++ List.replicate 8 29⟩ : Estimator).estimate).sat = false ∧
    ((⟨4, List.replicate 8 29 ++ List.replicate 8 28⟩ : Estimator).estimate).sat = false ∧
    (((⟨4, List.replicate 8 28 ++ List.replicate 8 29⟩ : Estimator).union
      ⟨4, List.replicate 8 29 ++ List.replicate 8 28⟩).estimate).sat = true := by decide +kernel

theorem test_met_IntersectAnswersInclusionExclusion :
    bank (twoBanks (level 0) (level 29)) 0 = some ⟨4, level 0⟩ ∧
    bank (twoBanks (level 0) (level 29)) 1 = some ⟨4, level 29⟩ ∧
    (⟨4, level 0⟩ : Estimator).ok = true ∧ (⟨4, level 29⟩ : Estimator).ok = true := by decide

theorem test_met_IntersectOfEqualBanksIsTheirCount :
    BanksOk (twoBanks (level 7) (level 7)) ∧ bank (twoBanks (level 7) (level 7)) 0 = bank (twoBanks (level 7) (level 7)) 1 ∧
    bank (twoBanks (level 7) (level 7)) 2 = bank (twoBanks (level 7) (level 7)) 3 := by decide

theorem test_met_BeforeAnyCreateOnlyCreateSucceeds :
    (∀ k, valid State.reset k = false) ∧ ∀ w : CommandWord, ∃ t, execWord w State.reset = .next t :=
  ⟨by decide, fun w => execWord_total w State.reset⟩

end Sys2Proof.Tests
end

/-! PROOFS. The statements of 00_scope.md: every edge has a next state (R14), an error is its response alone (R13,
R183), and the handshake refines the execution of the accepted words one after the other (R14, R51, R74). -/

namespace Sys2Proof.Machine

variable {s s' t : State} {w : CommandWord}

/-! ### Totality -/

/-- Settles O13: no case of `StepCases` and none of `ExecCases` is a fault or a refusal. -/
theorem everyEdgeHasANextState : Obligations.EveryEdgeHasANextState :=
  ⟨fun s => (step_total s).imp fun _ h => h.1, execWord_total⟩

/-! ### Errors -/

/-- A word either raises an error, which is then its whole effect, or answers with status 0 (R13). -/
theorem execWord_raises_or_succeeds (hx : execWord w s = .next t) :
    (∃ x, t = setResponse (errorWord x) s) ∨ rspStatus t.rspLatch = 0 := by
  cases hd : decode w with
  | error x =>
    rw [execWord_error hd] at hx
    cases hx
    exact .inl ⟨_, rfl⟩
  | ok i =>
    rw [execWord_ok hd] at hx
    cases exec_cases hx with
    | error x ht => exact .inl ⟨x, ht⟩
    | answer sat v _ ht => simp [ht]
    | write k e _ ht => simp [ht]

/-- Settles O23: with a status other than 0 the word raised an error, and `raise` writes RSP_LATCH alone. -/
theorem errorsLeaveTheStateAsItWas : Obligations.ErrorsLeaveTheStateAsItWas := by
  intro w s t hx hstatus
  obtain ⟨x, rfl⟩ := (execWord_raises_or_succeeds hx).resolve_right hstatus
  exact ⟨rfl, by simpa using code_le_four x, by simp, by simp, by simp⟩

/-! ### A word's banks and response depend on the banks alone -/

/-- Both results go on, with equal banks and equal responses. -/
def AlikeResults (r r' : Result) : Prop :=
  ∃ t t', r = .next t ∧ r' = .next t' ∧ t.banks = t'.banks ∧ t.rspLatch = t'.rspLatch

section Congruence

variable (hb : s.banks = s'.banks)
include hb

theorem respond_alike (sat : Bool) (v : Value) : AlikeResults (respond sat v s) (respond sat v s') :=
  ⟨_, _, rfl, rfl, hb, rfl⟩

theorem raise_alike (x : CommandError) : AlikeResults (raise x s) (raise x s') :=
  ⟨_, _, rfl, rfl, hb, rfl⟩

theorem setBank_banks_congr (k : BankId) (e : Estimator) : (setBank s k e).banks = (setBank s' k e).banks := by
  simp [setBank, hb]

theorem withBank_alike (k : BankId) {run run' : Estimator → Result} (hrun : ∀ e, AlikeResults (run e) (run' e)) :
    AlikeResults (withBank k s run) (withBank k s' run') := by
  cases he : bank s k with
  | none =>
    rw [withBank_none he, withBank_none (bank_congr k hb ▸ he)]
    exact raise_alike hb _
  | some e =>
    rw [withBank_some he, withBank_some (bank_congr k hb ▸ he)]
    exact hrun e

theorem withSources_alike (a b : BankId) {run run' : Estimator → Estimator → Result}
    (hrun : ∀ ea eb, AlikeResults (run ea eb) (run' ea eb)) :
    AlikeResults (withSources a b s run) (withSources a b s' run') := by
  refine withBank_alike hb a fun ea => withBank_alike hb b fun eb => ?_
  by_cases he : ea.b = eb.b
  · simpa [he] using hrun ea eb
  · simpa [he] using raise_alike hb .sizeMismatch

theorem exec_alike (i : Instr) : AlikeResults (exec i s) (exec i s') := by
  cases i with
  | create d m =>
    cases hm : validM m with
    | true => simpa [exec, execCreate, hm] using respond_alike (setBank_banks_congr hb d _) false 0
    | false => simpa [exec, execCreate, hm] using raise_alike hb .invalidRegisterCount
  | add d h => exact withBank_alike hb d fun _ => respond_alike (setBank_banks_congr hb d _) _ _
  | count a => exact withBank_alike hb a fun _ => respond_alike hb _ _
  | merge d a b => exact withSources_alike hb a b fun _ _ => respond_alike (setBank_banks_congr hb d _) _ _
  | intersect a b => exact withSources_alike hb a b fun _ _ => respond_alike hb _ _

theorem execWord_alike (w : CommandWord) : AlikeResults (execWord w s) (execWord w s') := by
  cases hd : decode w with
  | ok i => simpa [execWord_ok hd] using exec_alike hb i
  | error x => simpa [execWord, hd] using raise_alike hb .illegalCommand

end Congruence

/-! ### The words executed one after the other -/

/-- Responses in their order, and the banks after them. -/
abbrev Account := List ResponseWord × Option (Vector (Option Estimator) 4)

/-- The account of the words executed in order (R14). -/
def execution (ws : List CommandWord) (s : State) : Account :=
  (replay ws s, (replayState ws s).map State.banks)

/-- The account x with the responses rs before its own. -/
def prepend (rs : List ResponseWord) (x : Account) : Account := (rs ++ x.1, x.2)

@[simp] theorem prepend_nil (x : Account) : prepend [] x = x := rfl

theorem prepend_append (rs rs' : List ResponseWord) (x : Account) :
    prepend (rs ++ rs') x = prepend rs (prepend rs' x) := by
  simp [prepend]

theorem execution_cons (hx : execWord w s = .next t) (ws : List CommandWord) :
    execution (w :: ws) s = prepend [t.rspLatch] (execution ws t) := by
  simp [execution, prepend, replay, replayState, hx]

/-- An execution depends on the banks alone: neither the phase, nor a latch, nor the host is read. -/
theorem execution_congr (hb : s.banks = s'.banks) (ws : List CommandWord) : execution ws s = execution ws s' := by
  induction ws generalizing s s' with
  | nil => simp [execution, replay, replayState, hb]
  | cons w ws ih =>
    obtain ⟨t, t', ht, ht', hbt, hr⟩ := execWord_alike hb w
    rw [execution_cons ht, execution_cons ht', hr, ih hbt]

@[simp] theorem execution_passEdge (ws : List CommandWord) (s : State) :
    execution ws (passEdge s) = execution ws s := execution_congr (passEdge_banks s) ws

@[simp] theorem execution_setPhase (ws : List CommandWord) (p : Phase) (s : State) :
    execution ws (setPhase p s) = execution ws s := execution_congr (setPhase_banks s p) ws

@[simp] theorem execution_setBusyLeft (ws : List CommandWord) (n : Nat) (s : State) :
    execution ws (setBusyLeft n s) = execution ws s := execution_congr (setBusyLeft_banks s n) ws

@[simp] theorem execution_acceptWord (ws : List CommandWord) (w : CommandWord) (s : State) :
    execution ws (acceptWord w s) = execution ws s := execution_congr (acceptWord_banks s w) ws

/-- Every word has one response (R14, R67). -/
@[simp] theorem length_replay (ws : List CommandWord) (s : State) : (replay ws s).length = ws.length := by
  induction ws generalizing s with
  | nil => rfl
  | cons w ws ih =>
    obtain ⟨t, ht⟩ := execWord_total w s
    simp [replay, ht, ih]

/-! ### What one edge accepts and takes -/

theorem acceptedAt_idle (hr : (sample s).rst = false) (hp : s.phase = .idle) :
    acceptedAt s = if (sample s).cmdValid then some (sample s).cmdData else none := by
  simp [acceptedAt, cmdReady, hr, hp]

theorem acceptedAt_of_ne_idle (hp : s.phase ≠ .idle) : acceptedAt s = none := by
  simp [acceptedAt, cmdReady, hp]

theorem takenAt_resp (hr : (sample s).rst = false) (hp : s.phase = .resp) :
    takenAt s = if (sample s).rspReady then some s.rspLatch else none := by
  simp [takenAt, rspData, rspValid, hr, hp]

theorem takenAt_of_ne_resp (hp : s.phase ≠ .resp) : takenAt s = none := by
  simp [takenAt, rspData, rspValid, hp]

/-! ### Runs of edges -/

section Runs

variable (hx : step s = .next t)
include hx

theorem stateAfter_succ (n : Nat) : stateAfter (n + 1) s = stateAfter n t := by
  simp [stateAfter, hx]

theorem acceptedWords_succ (n : Nat) : acceptedWords (n + 1) s = (acceptedAt s).toList ++ acceptedWords n t := by
  simp [acceptedWords, hx]

theorem takenResponses_succ (n : Nat) : takenResponses (n + 1) s = (takenAt s).toList ++ takenResponses n t := by
  simp [takenResponses, hx]

/-- Every edge uses up one sample of the host, whatever it does. -/
theorem step_edges : t.edges = s.edges.tail := by
  cases step_cases hx with
  | finish u _ _ _ hu ht =>
    obtain ⟨-, -, -, -, he⟩ := execWord_frame hu
    simpa [ht] using he
  | reset _ ht | idleWait _ _ _ ht | accept _ _ _ ht | busyWait _ _ _ _ ht | respWait _ _ _ ht | taken _ _ _ ht =>
    simp [ht]

theorem NoReset.after_step {n : Nat} (hn : NoReset (n + 1) s) : NoReset n t := by
  rw [NoReset, step_edges hx]
  cases he : s.edges with
  | nil => simp
  | cons p ps => exact fun q hq => hn q (by simp [he, show q ∈ ps.take n from hq])

end Runs

theorem NoReset.sample_rst {n : Nat} (hn : NoReset (n + 1) s) : (sample s).rst = false := by
  cases he : s.edges with
  | nil => simp [sample, he, PortIn.quiet]
  | cons p ps => simpa [sample, he] using hn p (by simp [he])

/-! ### The refinement: what the core still owes -/

/-- What is due if the words ws are accepted from here on: in RESP the response on offer, in BUSY that of the word in
CMD_LATCH, then the responses of ws; and the banks after all of them (R74). -/
def due (ws : List CommandWord) (s : State) : Account :=
  match s.phase with
  | .idle => execution ws s
  | .busy => execution (s.cmdLatch :: ws) s
  | .resp => prepend [s.rspLatch] (execution ws s)

theorem due_idle (hp : s.phase = .idle) (ws : List CommandWord) : due ws s = execution ws s := by
  simp [due, hp]

theorem due_busy (hp : s.phase = .busy) (ws : List CommandWord) : due ws s = execution (s.cmdLatch :: ws) s := by
  simp [due, hp]

theorem due_resp (hp : s.phase = .resp) (ws : List CommandWord) :
    due ws s = prepend [s.rspLatch] (execution ws s) := by
  simp [due, hp]

/-- At most one of the words accepted already has its response still to be taken. -/
theorem length_due_nil_le_one (s : State) : (due [] s).1.length ≤ 1 := by
  cases hp : s.phase with
  | idle => simp [due_idle hp, execution]
  | busy => simp [due_busy hp, execution]
  | resp => simp [due_resp hp, execution, prepend]

/-- One edge without reset keeps the account: what it takes and what is due after it are what was due before it, the
word it accepts being the first of those to come. -/
theorem due_step (hr : (sample s).rst = false) (hx : step s = .next t) (ws : List CommandWord) :
    prepend (takenAt s).toList (due ws t) = due ((acceptedAt s).toList ++ ws) s := by
  cases step_cases hx with
  | reset hr' _ => simp [hr] at hr'
  | idleWait _ hp hv ht => simp [ht, due_idle, takenAt_of_ne_resp, acceptedAt_idle hr, hp, hv]
  | accept _ hp hv ht =>
    simp [ht, due_busy (acceptWord_phase _ _), due_idle hp, takenAt_of_ne_resp, acceptedAt_idle hr, hp, hv]
  | busyWait n _ hp _ ht => simp [ht, due_busy, takenAt_of_ne_resp, acceptedAt_of_ne_idle, hp]
  | finish u _ hp _ hu ht =>
    have hcmd : execution (s.cmdLatch :: ws) s = prepend [u.rspLatch] (execution ws u) := by
      rw [← execution_passEdge, execution_cons hu]
    simp [ht, due_busy hp, due_resp (setPhase_phase _ _), takenAt_of_ne_resp, acceptedAt_of_ne_idle, hp, hcmd]
  | respWait _ hp hv ht => simp [ht, due_resp, takenAt_resp hr, acceptedAt_of_ne_idle, hp, hv]
  | taken _ hp hv ht =>
    simp [ht, due_idle (setPhase_phase _ _), due_resp hp, takenAt_resp hr, acceptedAt_of_ne_idle, hp, hv]

/-- Over a run without reset, from any phase: what was taken and what is due at its end are what was due for the words
accepted. -/
theorem due_stateAfter {n : Nat} (hn : NoReset n s) (ht : stateAfter n s = some t) :
    prepend (takenResponses n s) (due [] t) = due (acceptedWords n s) s := by
  induction n generalizing s with
  | zero =>
    cases ht
    rfl
  | succ n ih =>
    obtain ⟨u, hu, -⟩ := step_total s
    rw [stateAfter_succ hu] at ht
    rw [takenResponses_succ hu, acceptedWords_succ hu, prepend_append, ih (hn.after_step hu) ht,
      due_step hn.sample_rst hu]

/-- Settles O15, by the account of what is due: at the end of the run one response at most, and in IDLE none. -/
theorem handshakeDeliversTheResponsesOfExec : Obligations.HandshakeDeliversTheResponsesOfExec := by
  intro n s t hp hn ht
  have hdue : prepend (takenResponses n s) (due [] t) = execution (acceptedWords n s) s := by
    rw [due_stateAfter hn ht, due_idle hp]
  have hresp : takenResponses n s ++ (due [] t).1 = replay (acceptedWords n s) s := congrArg Prod.fst hdue
  have hbanks : (due [] t).2 = (replayState (acceptedWords n s) s).map State.banks := congrArg Prod.snd hdue
  refine ⟨⟨_, hresp⟩, ?_, fun hpt => ⟨?_, ?_⟩⟩
  · have hlen := congrArg List.length hresp
    rw [List.length_append, length_replay] at hlen
    have hone := length_due_nil_le_one t
    omega
  · simpa [due_idle hpt, execution, replay] using hresp
  · rw [due_idle hpt] at hbanks
    exact Option.map_eq_some_iff.1 hbanks.symm

end Sys2Proof.Machine

/-! PROOFS. The statements of 10_state.md: the state after reset (R32), the invariant every edge keeps (R22, R23, R25,
R72), what may change a bank (R22, R27, R34), and that a latch is not seen outside its phase (R30, R206). -/

namespace Sys2Proof.Machine

variable {s s' t : State} {w : CommandWord}

/-! ### What CREATE accepts -/

theorem ispow2_iff (n : Nat) : ispow2 n = true ↔ ∃ b, n = 2 ^ b := by
  simpa [ispow2, Nat.isPowerOfTwo] using Nat.ne_zero_and_sub_one_eq_zero_iff_isPowerOfTwo (n := n)

/-- The legal register counts are the powers of two of the legal precisions (R22, R87). -/
theorem validM_iff (m : Imm) : validM m = true ↔ ∃ b, 4 ≤ b ∧ b ≤ 18 ∧ m.toNat = 2 ^ b := by
  have hbounds (b : Nat) : (2 ^ 4 ≤ 2 ^ b ∧ 2 ^ b ≤ 2 ^ 18) ↔ 4 ≤ b ∧ b ≤ 18 := by
    rw [Nat.pow_le_pow_iff_right (by norm_num), Nat.pow_le_pow_iff_right (by norm_num)]
  simp only [validM, Bool.and_eq_true, decide_eq_true_eq, ispow2_iff, Config.bMin, Config.bMax, and_assoc]
  constructor
  · rintro ⟨⟨b, hb⟩, hm⟩
    rw [hb, hbounds] at hm
    exact ⟨b, hm.1, hm.2, hb⟩
  · rintro ⟨b, h4, h18, hb⟩
    exact ⟨⟨b, hb⟩, by rw [hb, hbounds]; exact ⟨h4, h18⟩⟩

theorem fresh_ok_of_validM {m : Imm} (hm : validM m = true) : (Estimator.fresh m.toNat).ok = true := by
  obtain ⟨b, h4, h18, hb⟩ := (validM_iff m).1 hm
  exact fresh_ok h4 h18 hb

/-! ### Every command keeps the invariant -/

/-- The command goes on, with legal banks and a legal response. -/
def SafeResult (r : Result) : Prop :=
  ∃ t, r = .next t ∧ BanksOk t ∧ responseOk t.rspLatch = true

theorem banksOk_of_no_bank (hs : ∀ k, bank s k = none) : BanksOk s := by
  intro k e he
  simp [hs k] at he

theorem banksOk_congr (hb : t.banks = s.banks) (hs : BanksOk s) : BanksOk t := by
  intro k
  rw [bank_congr k hb]
  exact hs k

theorem banksOk_setBank (hs : BanksOk s) (k : BankId) {e : Estimator} (he : e.ok = true) :
    BanksOk (setBank s k e) := by
  intro j f hf
  rw [bank_setBank] at hf
  split at hf
  · cases hf
    exact he
  · exact hs j f hf

theorem respond_safe (hs : BanksOk s) (sat : Bool) (v : Value) : SafeResult (respond sat v s) :=
  ⟨_, rfl, hs, responseOk_okWord sat v⟩

section Safe

variable (hs : BanksOk s)
include hs

theorem raise_safe (x : CommandError) : SafeResult (raise x s) :=
  ⟨_, rfl, hs, responseOk_errorWord x⟩

theorem withBank_safe (k : BankId) {run : Estimator → Result} (hrun : ∀ e, e.ok = true → SafeResult (run e)) :
    SafeResult (withBank k s run) := by
  cases he : bank s k with
  | none => simpa [withBank_none he] using raise_safe hs .notCreated
  | some e => simpa [withBank_some he] using hrun e (hs k e he)

theorem withSources_safe (a b : BankId) {run : Estimator → Estimator → Result}
    (hrun : ∀ ea eb, ea.ok = true → eb.ok = true → ea.b = eb.b → SafeResult (run ea eb)) :
    SafeResult (withSources a b s run) := by
  refine withBank_safe hs a fun ea ha => withBank_safe hs b fun eb hb => ?_
  by_cases he : ea.b = eb.b
  · simpa [he] using hrun ea eb ha hb he
  · simpa [he] using raise_safe hs .sizeMismatch

theorem exec_safe (i : Instr) : SafeResult (exec i s) := by
  cases i with
  | create d m =>
    cases hm : validM m with
    | true => simpa [exec, execCreate, hm] using respond_safe (banksOk_setBank hs d (fresh_ok_of_validM hm)) false 0
    | false => simpa [exec, execCreate, hm] using raise_safe hs .invalidRegisterCount
  | add d h => exact withBank_safe hs d fun _ he => respond_safe (banksOk_setBank hs d (track_ok he _ h)) _ _
  | count a => exact withBank_safe hs a fun _ _ => respond_safe hs _ _
  | merge d a b =>
    exact withSources_safe hs a b fun _ _ ha hb he => respond_safe (banksOk_setBank hs d (union_ok ha hb he)) _ _
  | intersect a b => exact withSources_safe hs a b fun _ _ _ _ _ => respond_safe hs _ _

theorem execWord_safe (w : CommandWord) : SafeResult (execWord w s) := by
  cases hd : decode w with
  | ok i => simpa [execWord_ok hd] using exec_safe hs i
  | error x => simpa [execWord, hd] using raise_safe hs .illegalCommand

end Safe

/-- Settles O19, case by case of what an edge can do: only the edge that leaves BUSY touches a bank or brings a new
response on offer, and there `execWord_safe` holds; the others move the phase alone, or empty the banks. -/
theorem everyStepKeepsTheInvariant : Obligations.EveryStepKeepsTheInvariant := by
  rintro s t ⟨hbanks, hrsp⟩ hx
  cases step_cases hx with
  | reset _ ht =>
    subst ht
    exact ⟨banksOk_of_no_bank (resetCore_bank _), nofun⟩
  | finish u _ _ _ hu ht =>
    obtain ⟨v, hv, hvbanks, hvrsp⟩ := execWord_safe (banksOk_congr (passEdge_banks s) hbanks) s.cmdLatch
    cases hu.symm.trans hv
    subst ht
    exact ⟨hvbanks, fun _ => hvrsp⟩
  | idleWait _ _ _ ht | respWait _ _ _ ht =>
    subst ht
    exact ⟨hbanks, hrsp⟩
  | accept _ _ _ ht | taken _ _ _ ht =>
    subst ht
    exact ⟨hbanks, by simp⟩
  | busyWait _ _ hp _ ht =>
    subst ht
    exact ⟨hbanks, by simp [hp]⟩

/-! ### What may change a bank -/

/-- A word changes no bank, or it is a command that succeeds and puts an estimator into the bank of its RD field (R27). -/
theorem execWord_writes_dest_only (hx : execWord w s = .next t) :
    t.banks = s.banks ∨
      ∃ i d e, decode w = .ok i ∧ dest i = some d ∧ t = setResponse (okWord false 0) (setBank s d e) := by
  cases hw : decode w with
  | error x =>
    rw [execWord_error hw] at hx
    cases hx
    exact .inl rfl
  | ok i =>
    rw [execWord_ok hw] at hx
    cases exec_cases hx with
    | error x ht => exact .inl (by simp [ht])
    | answer sat v _ ht => exact .inl (by simp [ht])
    | write d e hd ht => exact .inr ⟨i, d, e, rfl, hd, ht⟩

theorem valid_congr (hb : t.banks = s.banks) (k : BankId) : valid t k = valid s k := by
  simp [valid, bank_congr k hb]

theorem valid_setBank (k : BankId) (hv : valid s k = true) (d : BankId) (e : Estimator) :
    valid (setBank s d e) k = true := by
  rw [valid, bank_setBank]
  split
  · rfl
  · exact hv

/-- No command makes a bank invalid (R34). -/
theorem execWord_keeps_valid (hx : execWord w s = .next t) {k : BankId} (hv : valid s k = true) :
    valid t k = true := by
  obtain hb | ⟨_, d, e, -, -, rfl⟩ := execWord_writes_dest_only hx
  · rwa [valid_congr hb]
  · exact valid_setBank k hv d e

/-- Settles O20: the only case of `StepCases` that empties a bank is the reset. -/
theorem onlyResetInvalidatesABank : Obligations.OnlyResetInvalidatesABank := by
  intro s t k hx hr hv
  cases step_cases hx with
  | reset hr' _ => simp [hr] at hr'
  | finish u _ _ _ hu ht =>
    subst ht
    exact execWord_keeps_valid (s := passEdge s) hu hv
  | idleWait _ _ _ ht | accept _ _ _ ht | busyWait _ _ _ _ ht | respWait _ _ _ ht | taken _ _ _ ht =>
    subst ht
    exact hv

theorem dest_eq_some_iff (i : Instr) (k : BankId) :
    dest i = some k ↔ (∃ m, i = .create k m) ∨ (∃ h, i = .add k h) ∨ ∃ a b, i = .merge k a b := by
  cases i <;> simp [dest]

/-- Settles O21: the bank that changed is the one written, so it is the RD bank of a command that succeeded. -/
theorem banksChangeOnlyThroughRd : Obligations.BanksChangeOnlyThroughRd := by
  intro w s t hx
  refine ⟨execWord_frame hx, fun k hk => ?_⟩
  obtain hb | ⟨i, d, e, hw, hd, rfl⟩ := execWord_writes_dest_only hx
  · exact absurd (bank_congr k hb) hk
  · obtain rfl : k = d := by
      by_contra hne
      exact hk (bank_setBank_ne s d e hne)
    exact ⟨by simp, by simpa [hw] using (dest_eq_some_iff i k).1 hd⟩

/-! ### Reset -/

/-- Settles O12: `bank_reset` empties the banks, the rest is read off `State.reset`. -/
theorem resetStateHoldsNoEstimator : Obligations.ResetStateHoldsNoEstimator :=
  ⟨fun k => by simp [valid, prec, cell], rfl, rfl, rfl, rfl⟩

/-- Settles O18: no bank is valid after reset (`bank_reset`), and no response is on offer. -/
theorem resetStateMeetsTheInvariant : Obligations.ResetStateMeetsTheInvariant :=
  ⟨banksOk_of_no_bank bank_reset, nofun⟩

/-! ### One edge, phase by phase -/

theorem step_reset (hr : (sample s).rst = true) : step s = .next (resetCore (passEdge s)) := by
  simp [step, clockEdge, hr]

theorem step_idle (hr : (sample s).rst = false) (hp : s.phase = .idle) :
    step s = .next (idleEdge (sample s) (passEdge s)) := by
  simp [step, clockEdge, hr, hp]

theorem step_busy (hr : (sample s).rst = false) (hp : s.phase = .busy) : step s = busyEdge (passEdge s) := by
  simp [step, clockEdge, hr, hp]

theorem step_resp (hr : (sample s).rst = false) (hp : s.phase = .resp) :
    step s = .next (respEdge (sample s) (passEdge s)) := by
  simp [step, clockEdge, hr, hp]

/-! ### States that differ only in what their phase gives no meaning -/

theorem seenAlike_refl (s : State) : SeenAlike s s :=
  ⟨rfl, rfl, rfl, rfl, fun _ => ⟨rfl, rfl⟩, fun _ => rfl⟩

/-- Both results go on, to states that differ at most in what their phase gives no meaning. -/
def SeenAlikeResults (r r' : Result) : Prop :=
  ∃ t t', r = .next t ∧ r' = .next t' ∧ SeenAlike t t'

section SeenAlike

variable (h : SeenAlike s s')
include h

theorem sample_seenAlike : sample s' = sample s := by
  obtain ⟨-, -, he, -, -, -⟩ := h
  simp [sample, he]

theorem phase_seenAlike : s'.phase = s.phase := by
  obtain ⟨-, hp, -⟩ := h
  exact hp

theorem passEdge_seenAlike : SeenAlike (passEdge s) (passEdge s') := by
  obtain ⟨hb, hp, he, hplan, hbusy, hresp⟩ := h
  exact ⟨hb, hp, congrArg List.tail he, hplan, hbusy, hresp⟩

theorem resetCore_seenAlike : resetCore s' = resetCore s := by
  obtain ⟨-, -, he, hplan, -, -⟩ := h
  simp [resetCore, he, hplan]

theorem acceptWord_seenAlike (w : CommandWord) : SeenAlike (acceptWord w s) (acceptWord w s') := by
  obtain ⟨hb, -, he, hplan, -, -⟩ := h
  exact ⟨hb, rfl, he, by simp [hplan], by simp [hplan], by simp⟩

theorem idleEdge_seenAlike (p : PortIn) : SeenAlike (idleEdge p s) (idleEdge p s') := by
  unfold idleEdge
  split
  · exact acceptWord_seenAlike h _
  · exact h

theorem setPhase_idle_seenAlike : SeenAlike (setPhase .idle s) (setPhase .idle s') := by
  obtain ⟨hb, -, he, hplan, -, -⟩ := h
  exact ⟨hb, rfl, he, hplan, by simp, by simp⟩

theorem respEdge_seenAlike (p : PortIn) : SeenAlike (respEdge p s) (respEdge p s') := by
  unfold respEdge
  split
  · exact setPhase_idle_seenAlike h
  · exact h

theorem setBusyLeft_seenAlike (hp : s.phase = .busy) (n : Nat) :
    SeenAlike (setBusyLeft n s) (setBusyLeft n s') := by
  obtain ⟨hb, hph, he, hplan, hbusy, -⟩ := h
  exact ⟨hb, hph, he, hplan, fun _ => ⟨(hbusy hp).1, rfl⟩, by simp [hp]⟩

/-- The response formed is the same one, since the banks are (`execWord_alike`). -/
theorem offerResponse_seenAlike (w : CommandWord) :
    SeenAlikeResults (offerResponse (execWord w s)) (offerResponse (execWord w s')) := by
  obtain ⟨hb, -, he, hplan, -, -⟩ := h
  obtain ⟨u, u', hu, hu', hub, hur⟩ := execWord_alike hb.symm w
  obtain ⟨-, -, -, hplanu, heu⟩ := execWord_frame hu
  obtain ⟨-, -, -, hplanu', heu'⟩ := execWord_frame hu'
  refine ⟨setPhase .resp u, setPhase .resp u', by simp [hu, offerResponse], by simp [hu', offerResponse],
    hub.symm, rfl, ?_, ?_, by simp, fun _ => hur.symm⟩
  · simp [heu, heu', he]
  · simp [hplanu, hplanu', hplan]

theorem busyEdge_seenAlike (hp : s.phase = .busy) : SeenAlikeResults (busyEdge s) (busyEdge s') := by
  obtain ⟨hcmd, hleft⟩ : s'.cmdLatch = s.cmdLatch ∧ s'.busyLeft = s.busyLeft := by
    obtain ⟨-, -, -, -, hbusy, -⟩ := h
    exact hbusy hp
  unfold busyEdge
  rw [hcmd, hleft]
  cases s.busyLeft with
  | zero => exact offerResponse_seenAlike h s.cmdLatch
  | succ n => exact ⟨_, _, rfl, rfl, setBusyLeft_seenAlike h hp n⟩

/-- The outputs of the core read nothing but the phase, and RSP_LATCH in RESP (R73, R74). -/
theorem outputs_seenAlike : cmdReady s = cmdReady s' ∧ rspValid s = rspValid s' ∧ rspData s = rspData s' := by
  obtain ⟨-, hp, -, -, -, hresp⟩ := h
  refine ⟨by simp [cmdReady, hp], by simp [rspValid, hp], ?_⟩
  cases hph : s.phase with
  | idle | busy => simp [rspData, rspValid, hp, hph]
  | resp => simp [rspData, rspValid, hp, hph, hresp hph]

theorem acceptedAt_seenAlike : acceptedAt s = acceptedAt s' := by
  obtain ⟨hready, -, -⟩ := outputs_seenAlike h
  simp [acceptedAt, sample_seenAlike h, hready]

theorem takenAt_seenAlike : takenAt s = takenAt s' := by
  obtain ⟨-, -, hdata⟩ := outputs_seenAlike h
  simp [takenAt, sample_seenAlike h, hdata]

/-- One edge, of whichever kind, leads to states that are again seen alike. -/
theorem step_seenAlike : SeenAlikeResults (step s) (step s') := by
  have hsample := sample_seenAlike h
  have hpass := passEdge_seenAlike h
  have hphase := phase_seenAlike h
  cases hr : (sample s).rst with
  | true =>
    rw [step_reset hr, step_reset (hsample ▸ hr), resetCore_seenAlike hpass]
    exact ⟨_, _, rfl, rfl, seenAlike_refl _⟩
  | false =>
    have hr' : (sample s').rst = false := hsample ▸ hr
    cases hp : s.phase with
    | idle =>
      rw [step_idle hr hp, step_idle hr' (hphase.trans hp), hsample]
      exact ⟨_, _, rfl, rfl, idleEdge_seenAlike hpass _⟩
    | busy =>
      rw [step_busy hr hp, step_busy hr' (hphase.trans hp)]
      exact busyEdge_seenAlike hpass hp
    | resp =>
      rw [step_resp hr hp, step_resp hr' (hphase.trans hp), hsample]
      exact ⟨_, _, rfl, rfl, respEdge_seenAlike hpass _⟩

end SeenAlike

/-- Settles O17, by induction on the edges: each keeps the two states alike (`step_seenAlike`), and alike states accept
the same word, give the same response and show the same outputs. -/
theorem latchesAreNotSeenOutsideTheirPhase : Obligations.LatchesAreNotSeenOutsideTheirPhase := by
  intro n
  induction n with
  | zero => exact fun s s' h => ⟨rfl, rfl, s, s', rfl, rfl, h, outputs_seenAlike h⟩
  | succ n ih =>
    intro s s' h
    obtain ⟨t, t', ht, ht', htt⟩ := step_seenAlike h
    obtain ⟨hacc, htaken, hend⟩ := ih t t' htt
    refine ⟨?_, ?_, ?_⟩
    · rw [acceptedWords_succ ht, acceptedWords_succ ht', acceptedAt_seenAlike h, hacc]
    · rw [takenResponses_succ ht, takenResponses_succ ht', takenAt_seenAlike h, htaken]
    · rwa [stateAfter_succ ht, stateAfter_succ ht']

end Sys2Proof.Machine

/-! PROOFS. The statements of 30_encoding.md: decoder, encoder, legality predicate and mask table agree on every word (R61
to R64, R75), the response words are those listed (R72), and the handshake at an edge without reset (R74, R77). -/

namespace Sys2Proof

variable {w v : CommandWord} {i : Instr}

/-! ### Decoder and encoder -/

/-- The decoder reads every operand from the field the encoder put it in. -/
theorem decode_encode (i : Instr) : decode (encode i) = .ok i := by
  rw [decode_ok_iff]
  cases i <;>
    simp [encode, opField_assemble, rdField_assemble, raField_assemble, rbField_assemble, rsvField_assemble,
      immField_assemble]

/-- A word that decodes has RSV = 0, so it is assembled from its other five fields; those are the operands, and in the
fields the command does not use the zeros that the encoder writes. -/
theorem encode_of_decode_ok (h : decode w = .ok i) : encode i = w := by
  obtain ⟨hrsv, hfields⟩ := (decode_ok_iff w i).1 h
  rw [← assemble_fields w hrsv]
  obtain ⟨hop, hra, hrb, rfl⟩ | ⟨hop, hra, hrb, rfl⟩ | ⟨hop, hrd, hrb, himm, rfl⟩ | ⟨hop, himm, rfl⟩ |
    ⟨hop, hrd, himm, rfl⟩ := hfields
  · simp [encode, hop, hra, hrb]
  · simp [encode, hop, hra, hrb]
  · simp [encode, hop, hrd, hrb, himm]
  · simp [encode, hop, himm]
  · simp [encode, hop, hrd, himm]

theorem decodeTableWord_eq_some_iff {nbits n : Nat} :
    decodeTableWord nbits n = some i ↔ decode (tableWord nbits n) = .ok i := by
  unfold decodeTableWord
  cases decode (tableWord nbits n) <;> simp

/-! ### Words field by field -/

/-- Two words are equal when their six fields are (R61); RSV comes first, as in R64. -/
theorem word_eq_iff_fields : w = v ↔ rsvField w = rsvField v ∧ opField w = opField v ∧ rdField w = rdField v ∧
    raField w = raField v ∧ rbField w = rbField v ∧ immField w = immField v := by
  constructor
  · rintro rfl
    simp
  · rintro ⟨hrsv, hop, hrd, hra, hrb, himm⟩
    rw [word_eq_fields w, word_eq_fields v, hop, hrd, hra, hrb, hrsv, himm]

/-- The legality predicate as a proposition on the fields (R64). -/
theorem legal_iff_fields (w : CommandWord) : legal w = true ↔ rsvField w = 0 ∧
    ((opField w = 1 ∧ raField w = 0 ∧ rbField w = 0) ∨
     (opField w = 2 ∧ raField w = 0 ∧ rbField w = 0) ∨
     (opField w = 3 ∧ rdField w = 0 ∧ rbField w = 0 ∧ immField w = 0) ∨
     (opField w = 4 ∧ immField w = 0) ∨
     (opField w = 5 ∧ rdField w = 0 ∧ immField w = 0)) := by
  simp [legal, or_assoc, and_assoc]

end Sys2Proof

namespace Sys2Proof.Machine

variable {s t u : State} {w : CommandWord} {i : Instr}

/-- Settles O1: `decode_encode`, which asks no more of the operands than their types do. -/
theorem decodeReadsBackEveryEncoding : Obligations.DecodeReadsBackEveryEncoding :=
  fun i _ => decode_encode i

/-- Settles O2: no bit of a legal word is free (`encode_of_decode_ok`). -/
theorem everyCommandWordIsItsEncoding : Obligations.EveryCommandWordIsItsEncoding :=
  fun _ _ => encode_of_decode_ok

/-! ### The mask and match table -/

/-- A word matches a pattern when each of its fields does. -/
theorem matches_iff_fields (w mask value : CommandWord) : Matches w (mask, value) ↔
    rsvField w &&& rsvField mask = rsvField value ∧ opField w &&& opField mask = opField value ∧
    rdField w &&& rdField mask = rdField value ∧ raField w &&& raField mask = raField value ∧
    rbField w &&& rbField mask = rbField value ∧ immField w &&& immField mask = immField value := by
  simp only [Matches, word_eq_iff_fields, opField, rdField, raField, rbField, rsvField, immField, BitVec.extractLsb'_and]

/-- A field under a mask of ones is the field itself, the mask being written as a number. -/
theorem and_ones {n : Nat} {mask : BitVec n} (h : mask = BitVec.allOnes n) (x : BitVec n) : x &&& mask = x := by
  rw [h, BitVec.and_allOnes]

/-! Each pattern asks of the fields what R64 asks of its command: a field under a mask of zeros is free, one under a mask of
ones has the value in the match word. -/

section Patterns

variable (w : CommandWord)

theorem matches_create_iff : Matches w (0xF3FFFFFF00000000, 0x1000000000000000) ↔
    rsvField w = 0 ∧ opField w = 1 ∧ raField w = 0 ∧ rbField w = 0 := by
  simp [matches_iff_fields, and_ones, opField, rdField, raField, rbField, rsvField, immField]

theorem matches_add_iff : Matches w (0xF3FFFFFF00000000, 0x2000000000000000) ↔
    rsvField w = 0 ∧ opField w = 2 ∧ raField w = 0 ∧ rbField w = 0 := by
  simp [matches_iff_fields, and_ones, opField, rdField, raField, rbField, rsvField, immField]

theorem matches_count_iff : Matches w (0xFCFFFFFFFFFFFFFF, 0x3000000000000000) ↔
    rsvField w = 0 ∧ opField w = 3 ∧ rdField w = 0 ∧ rbField w = 0 ∧ immField w = 0 := by
  simp [matches_iff_fields, and_ones, opField, rdField, raField, rbField, rsvField, immField]

theorem matches_merge_iff : Matches w (0xF03FFFFFFFFFFFFF, 0x4000000000000000) ↔
    rsvField w = 0 ∧ opField w = 4 ∧ immField w = 0 := by
  simp [matches_iff_fields, and_ones, opField, rdField, raField, rbField, rsvField, immField]

theorem matches_intersect_iff : Matches w (0xFC3FFFFFFFFFFFFF, 0x5000000000000000) ↔
    rsvField w = 0 ∧ opField w = 5 ∧ rdField w = 0 ∧ immField w = 0 := by
  simp [matches_iff_fields, and_ones, opField, rdField, raField, rbField, rsvField, immField]

/-- A word is legal when it matches one of the five patterns (R64). -/
theorem legal_iff_matches : legal w = true ↔ ∃ p ∈ commandPatterns, Matches w p := by
  rw [legal_iff_fields]
  simp only [commandPatterns, List.exists_mem_cons_iff, List.not_mem_nil, false_and, exists_false, or_false,
    matches_create_iff, matches_add_iff, matches_count_iff, matches_merge_iff, matches_intersect_iff, and_or_left]

end Patterns

/-- Every mask covers OP, so a match fixes it. -/
theorem opField_eq_of_matches {p : CommandWord × CommandWord} (hp : p ∈ commandPatterns) (h : Matches w p) :
    opField w = opField p.2 := by
  have hmask : ∀ p ∈ commandPatterns, opField p.1 = BitVec.allOnes 4 := by simp [commandPatterns, opField]
  obtain ⟨-, hop, -⟩ := (matches_iff_fields w p.1 p.2).1 h
  rwa [and_ones (hmask p hp)] at hop

/-- The five patterns are disjoint: their OP values differ (R64). -/
theorem commandPatterns_disjoint :
    commandPatterns.Pairwise fun p q => ∀ w : CommandWord, ¬ (Matches w p ∧ Matches w q) := by
  have hop : commandPatterns.Pairwise fun p q => opField p.2 ≠ opField q.2 := by decide
  refine hop.imp_of_mem fun hp hq hne w ⟨hwp, hwq⟩ => hne ?_
  rw [← opField_eq_of_matches hp hwp, opField_eq_of_matches hq hwq]

/-- Settles O3: predicate, decoder (`decode_ok_iff`) and table each come down to the same conditions on the fields. -/
theorem legalWordsAreTheMaskTable : Obligations.LegalWordsAreTheMaskTable := by
  refine ⟨legal_iff_fields, fun w => ?_, fun w => ?_, fun w => ?_, fun w => ?_, fun w => ?_, legal_iff_matches,
    commandPatterns_disjoint⟩
  · rw [matches_create_iff]
    simp [decode_ok_iff]
  · rw [matches_add_iff]
    simp [decode_ok_iff]
  · rw [matches_count_iff]
    simp [decode_ok_iff]
  · rw [matches_merge_iff]
    simp [decode_ok_iff]
  · rw [matches_intersect_iff]
    simp [decode_ok_iff]

/-! ### Response words -/

theorem dest_eq_none_iff (i : Instr) : dest i = none ↔ (∃ a, i = .count a) ∨ ∃ a b, i = .intersect a b := by
  cases i <;> simp [dest]

/-- The number of an error response, with the range of its code (R72). -/
theorem errorWord_listed (x : CommandError) : ∃ c, 1 ≤ c ∧ c ≤ 4 ∧ (errorWord x).toNat = c <<< 68 :=
  ⟨x.code.toNat, by cases x <;> decide, code_le_four x, errorWord_toNat x⟩

/-- Settles O22, by the three ways a command ends: it raises an error, answers a value, which only a command without
RD does, or writes a bank and answers 0. -/
theorem responseWordsAreTheListedOnes : Obligations.ResponseWordsAreTheListedOnes := by
  intro w s t hx
  cases hw : decode w with
  | error x =>
    rw [execWord_error hw] at hx
    cases hx
    exact .inl (errorWord_listed _)
  | ok i =>
    rw [execWord_ok hw] at hx
    cases exec_cases hx with
    | error x ht =>
      subst ht
      exact .inl (errorWord_listed x)
    | answer sat v hd ht =>
      subst ht
      refine .inr (.inr ⟨by simpa using (dest_eq_none_iff i).1 hd, sat.toNat, v.toNat, sat.toNat_le, v.isLt, ?_⟩)
      exact okWord_toNat sat v
    | write k e _ ht => exact .inr (.inl (by simp [ht]))

/-! ### The clock edge, kind by kind -/

section Edges

variable (hr : (sample s).rst = false)
include hr

/-- The edge that leaves BUSY offers the response of the latched word (R74). -/
theorem step_finish (hp : s.phase = .busy) (hn : s.busyLeft = 0) (hu : execWord s.cmdLatch (passEdge s) = .next u) :
    step s = .next (setPhase .resp u) := by
  simp [step_busy hr hp, busyEdge, hn, hu, offerResponse]

theorem step_busyWait {n : Nat} (hp : s.phase = .busy) (hn : s.busyLeft = n + 1) :
    step s = .next (setBusyLeft n (passEdge s)) := by
  simp [step_busy hr hp, busyEdge, hn]

theorem step_finish_of_decode_ok (hp : s.phase = .busy) (hn : s.busyLeft = 0) (hd : decode s.cmdLatch = .ok i) :
    ∃ t, exec i (passEdge s) = .next t ∧ step s = .next (setPhase .resp t) := by
  obtain ⟨t, ht, -⟩ := exec_total i (passEdge s)
  exact ⟨t, ht, step_finish hr hp hn ((execWord_ok hd _).trans ht)⟩

theorem idle_handshake (hp : s.phase = .idle) :
    cmdReady s = true ∧ rspValid s = false ∧
      ((sample s).cmdValid = true → ∃ t, step s = .next t ∧ t.phase = .busy ∧ t.cmdLatch = (sample s).cmdData ∧
        t.banks = s.banks) ∧
      ((sample s).cmdValid = false → step s = .next (passEdge s)) := by
  refine ⟨by simp [cmdReady, hp], by simp [rspValid, hp], fun hv => ?_, fun hv => ?_⟩
  · exact ⟨acceptWord (sample s).cmdData (passEdge s), by simp [step_idle hr hp, idleEdge, hv], rfl, rfl, rfl⟩
  · simp [step_idle hr hp, idleEdge, hv]

/-- The latched word is executed on the state with the edge's sample used up, which neither banks nor response depend on
(`execWord_alike`). -/
theorem busy_handshake (hp : s.phase = .busy) :
    cmdReady s = false ∧ rspValid s = false ∧
      (s.busyLeft ≠ 0 → ∃ t, step s = .next t ∧ t.phase = .busy ∧ t.cmdLatch = s.cmdLatch ∧ t.banks = s.banks ∧
        t.busyLeft + 1 = s.busyLeft) ∧
      (s.busyLeft = 0 → ∃ t u, execWord s.cmdLatch s = .next u ∧ step s = .next t ∧ t.phase = .resp ∧
        t.rspLatch = u.rspLatch ∧ t.banks = u.banks) := by
  refine ⟨by simp [cmdReady, hp], by simp [rspValid, hp], fun hn => ?_, fun hn => ?_⟩
  · obtain ⟨n, hn⟩ := Nat.exists_eq_succ_of_ne_zero hn
    exact ⟨_, step_busyWait hr hp hn, hp, rfl, rfl, hn.symm⟩
  · obtain ⟨u, u', hu, hu', hbanks, hrsp⟩ := execWord_alike (passEdge_banks s) s.cmdLatch
    exact ⟨setPhase .resp u, u', hu', step_finish hr hp hn hu, rfl, hrsp, hbanks⟩

theorem resp_handshake (hp : s.phase = .resp) :
    cmdReady s = false ∧ rspValid s = true ∧ rspData s = some s.rspLatch ∧
      ((sample s).rspReady = true → step s = .next { passEdge s with phase := .idle }) ∧
      ((sample s).rspReady = false → step s = .next (passEdge s)) := by
  refine ⟨by simp [cmdReady, hp], by simp [rspValid, hp], by simp [rspData, rspValid, hp], fun hv => ?_, fun hv => ?_⟩
  · simp [step_resp hr hp, respEdge, hv, setPhase]
  · simp [step_resp hr hp, respEdge, hv]

end Edges

/-- Settles O7, phase by phase. -/
theorem handshakeFollowsThePhases : Obligations.HandshakeFollowsThePhases :=
  fun _ hr => ⟨idle_handshake hr, busy_handshake hr, resp_handshake hr⟩

/-- Settles O6: the edge is `step_finish`, with the word decoded, illegal, or placed by `withFetchWord`. -/
theorem stepRunsTheDecodedCommand : Obligations.StepRunsTheDecodedCommand := by
  refine ⟨fun s i hp hn hr hd => step_finish_of_decode_ok hr hp hn hd, fun s x hp hn hr hd => ?_,
    fun s nbits n i hd => ?_⟩
  · exact step_finish hr hp hn (execWord_error hd _)
  · exact step_finish_of_decode_ok (s := s.withFetchWord nbits n) rfl rfl rfl (decodeTableWord_eq_some_iff.1 hd)

end Sys2Proof.Machine

/-! PROOFS. The statements of 40_create.md: the legal register counts (R87), what CREATE writes and what it refuses (R86,
R88), and that a created bank counts 0 until something is put into it (R90). -/

namespace Sys2Proof.Machine

variable {s t : State} {i : Instr} {k : BankId} {m : Imm} {b : Nat}

/-! ### The legal register counts -/

theorem validM_iff_bounds (m : Imm) :
    validM m = true ↔ (∃ b, m.toNat = 2 ^ b) ∧ 2 ^ 4 ≤ m.toNat ∧ m.toNat ≤ 2 ^ 18 := by
  simp [validM, ispow2_iff, and_assoc]

/-- Settles O27: the list is that of the powers with exponents 4 to 18, which are the legal precisions (`validM_iff`). -/
theorem legalRegisterCountsAreTheFifteen : Obligations.LegalRegisterCountsAreTheFifteen := by
  refine ⟨fun m => ?_, validM_iff_bounds⟩
  have hlist : [16, 32, 64, 128, 256, 512, 1024, 2048, 4096, 8192, 16384, 32768, 65536, 131072, 262144] =
      (List.range' 4 15).map (2 ^ ·) := by decide
  rw [validM_iff, hlist]
  simp [Nat.lt_succ_iff, and_assoc, eq_comm]

/-! ### What CREATE does -/

theorem cell_eq_of_bank_fresh {n : Nat} (hk : bank s k = some (Estimator.fresh n)) (j : Nat) :
    cell s k j = if j < n then some 0 else none := by
  simp [cell, hk, Estimator.fresh, List.getElem?_replicate]

theorem prec_eq_of_bank_fresh (hb : b ≤ 18) (hk : bank s k = some (Estimator.fresh (2 ^ b))) : prec s k = some b := by
  simp [prec, hk, fresh_b hb rfl]

/-- Settles O31: the bank written is `Estimator.fresh (2 ^ b)`, and `setBank` leaves all else as it was. -/
theorem createBuildsAnEmptyEstimator : Obligations.CreateBuildsAnEmptyEstimator := by
  intro d m s b h4 h18 hm
  refine ⟨_, execCreate_ok ((validM_iff m).2 ⟨b, h4, h18, hm⟩) d s, okWord_zero, ?_⟩
  rw [hm]
  have hbank := bank_setBank_same s d (Estimator.fresh (2 ^ b))
  exact ⟨(valid_iff _ _).2 ⟨_, hbank⟩, prec_eq_of_bank_fresh h18 hbank, cell_eq_of_bank_fresh hbank,
    fun k hk => bank_setBank_ne s d _ hk, rfl, rfl, rfl, rfl, rfl⟩

/-- Settles O32: by `validM_iff` the count fails the check, and `raise` writes RSP_LATCH alone. -/
theorem createRefusesOtherCounts : Obligations.CreateRefusesOtherCounts := by
  intro d m s hm
  have hbad : validM m = false := by rwa [← Bool.not_eq_true, validM_iff]
  exact execCreate_bad hbad d s

/-! ### The estimate of an empty estimator -/

theorem zAcc_replicate_zero (n : Nat) : zAcc (List.replicate n 0) = n * 2 ^ 32 := by
  simp [zAcc, powerUnit]

theorem vCnt_replicate_zero (n : Nat) : vCnt (List.replicate n 0) = n := by
  simp [vCnt, List.countP_replicate]

/-- The raw estimate of an empty array is below 2^32, whatever the alpha word. -/
theorem satP_empty (a : BitVec 32) (hb : b ≤ 18) : satP a.toNat b (2 ^ b * 2 ^ 32) = false := by
  simp only [satP, numerator, Nat.shiftLeft_eq, Bool.or_eq_false_iff, beq_eq_false_iff_ne, decide_eq_false_iff_not, not_le]
  refine ⟨by positivity, ?_⟩
  calc a.toNat * 2 ^ (2 * b) < 2 ^ 32 * 2 ^ (2 * b) := by gcongr; exact a.isLt
    _ = 2 ^ (32 + 2 * b) := (pow_add ..).symm
    _ ≤ 2 ^ (b + 32 + 32) := Nat.pow_le_pow_right (by norm_num) (by omega)
    _ = 2 ^ b * 2 ^ 32 * 2 ^ 32 := by rw [pow_add, pow_add]

/-- The raw estimate of an empty array is alpha * m, within the small range, whatever the alpha word. -/
theorem smallP_empty (a : BitVec 32) (b : Nat) : smallP a.toNat b (2 ^ b * 2 ^ 32) = true := by
  have ha : a.toNat * 2 ≤ 5 * 2 ^ 32 := by have := a.isLt; omega
  simp only [smallP, Nat.shiftLeft_eq, decide_eq_true_eq]
  calc a.toNat * 2 ^ (b + 1) = 2 ^ b * (a.toNat * 2) := by ring
    _ ≤ 2 ^ b * (5 * 2 ^ 32) := by gcongr
    _ = 5 * (2 ^ b * 2 ^ 32) := by ring

theorem choosePath_empty (a : BitVec 32) (hb : b ≤ 18) : choosePath a.toNat b (2 ^ b * 2 ^ 32) (2 ^ b) = .linear := by
  simp only [choosePath, satP_empty a hb, smallP_empty a b]
  simp

/-- The logarithm's integer part alone already reaches that of m, so the linear path's difference is 0. -/
theorem linearQ16_two_pow (b : Nat) : linearQ16 b (2 ^ b) = 0 := by
  have hlog : b <<< Config.f ≤ log2Q48 (2 ^ b) := by
    simp [log2Q48_eq_add, msb, Nat.shiftLeft_eq]
  simp [linearQ16, Nat.sub_eq_zero_of_le hlog]

/-- The empty estimator estimates 0, for every alpha word (R144). -/
theorem estimateWith_empty (a : BitVec 32) (hb : b ≤ 18) :
    estimateWith a b (List.replicate (2 ^ b) 0) = ⟨0, false⟩ := by
  rw [estimateWith_linear (by rw [zAcc_replicate_zero, vCnt_replicate_zero, choosePath_empty a hb]),
    vCnt_replicate_zero, linearQ16_two_pow]
  rfl

theorem estimate_fresh (hm : validM m = true) : (Estimator.fresh m.toNat).estimate = ⟨0, false⟩ := by
  obtain ⟨b, -, h18, hb⟩ := (validM_iff m).1 hm
  rw [hb, Estimator.estimate, fresh_b h18 rfl]
  exact estimateWith_empty _ h18

/-! ### A created bank stays empty until it is filled -/

/-- Bank k is valid and empty: it holds what a successful CREATE writes. -/
def BankFresh (k : BankId) (s : State) : Prop :=
  ∃ m : Imm, validM m = true ∧ bank s k = some (Estimator.fresh m.toNat)

theorem bankFresh_congr (hb : bank t k = bank s k) (hs : BankFresh k s) : BankFresh k t := by
  rwa [BankFresh, hb]

/-- A CREATE that answers status 0 leaves its bank empty, whatever it held (R86, R89). -/
theorem create_bankFresh (hx : exec (.create k m) s = .next t) (hstatus : rspStatus t.rspLatch = 0) : BankFresh k t := by
  cases hm : validM m with
  | true =>
    cases hx.symm.trans (execCreate_ok hm k s)
    exact ⟨m, hm, bank_setBank_same s k _⟩
  | false =>
    cases hx.symm.trans (execCreate_bad hm k s)
    exact absurd (by simpa using hstatus) (code_ne_zero .invalidRegisterCount)

/-- A command that writes bank k either fills it or creates it. -/
theorem fills_or_create_of_dest (hd : dest i = some k) : fills k i = true ∨ ∃ m, i = .create k m := by
  cases i <;> simp_all [dest, fills]

/-- A command keeps bank k empty unless it is an ADD or a MERGE into it that succeeds. -/
theorem exec_keeps_bankFresh (hx : exec i s = .next t) (hfill : fills k i = true → rspStatus t.rspLatch ≠ 0)
    (hs : BankFresh k s) : BankFresh k t := by
  cases exec_cases hx with
  | error x ht => exact bankFresh_congr (by simp [ht]) hs
  | answer sat v _ ht => exact bankFresh_congr (by simp [ht]) hs
  | write d e hd ht =>
    have hstatus : rspStatus t.rspLatch = 0 := by simp [ht]
    by_cases hkd : k = d
    · subst hkd
      obtain hf | ⟨m, rfl⟩ := fills_or_create_of_dest hd
      · exact absurd hstatus (hfill hf)
      · exact create_bankFresh hx hstatus
    · exact bankFresh_congr (by simp [ht, bank_setBank_ne s d e hkd]) hs

theorem execList_keeps_bankFresh {is : List Instr} (hnone : NoneSucceeds (fills k) is s) (hx : execList is s = some t)
    (hs : BankFresh k s) : BankFresh k t := by
  induction is generalizing s with
  | nil =>
    cases hx
    exact hs
  | cons i is ih =>
    obtain ⟨u, hu, hfill, hrest⟩ := hnone
    exact ih hrest (by simpa [execList, hu] using hx) (exec_keeps_bankFresh hu hfill hs)

theorem exec_count_of_bankFresh (hs : BankFresh k s) : exec (.count k) s = .next (setResponse 0 s) := by
  obtain ⟨m, hm, hk⟩ := hs
  refine (execCount_ok hk).trans ?_
  simp [estimate_fresh hm]

/-- Settles O50: CREATE makes the bank empty, the commands after it keep it so, and COUNT of an empty bank answers 0. -/
theorem freshBankCountsZero : Obligations.FreshBankCountsZero := by
  intro d m is s t u hcreate hstatus hnone hx
  exact ⟨_, exec_count_of_bankFresh (execList_keeps_bankFresh hnone hx (create_bankFresh hcreate hstatus)), rfl⟩

end Sys2Proof.Machine

/-! PROOFS. The statements of 41_add.md: the two fields of a hash (R95), the leading-zero count and the rank (R98, R99,
R101), what ADD does to the state (R102, R104), and that the order and the multiplicity of ADDs do not matter (R26, R105,
R106). -/

namespace Sys2Proof.Machine

variable {s : State} {d : BankId} {e : Estimator} {m : Imm} {width v b : Nat}

/-! ### The two fields of a hash -/

theorem residWidth_eq (b : Nat) : residWidth b = 32 - b := rfl

theorem hashIndex_eq_div (h : Imm) (b : Nat) : hashIndex h b = h.toNat / 2 ^ (32 - b) :=
  Nat.shiftRight_eq_div_pow _ _

theorem resid_eq_mod (h : Imm) (b : Nat) : resid h b = h.toNat % 2 ^ (32 - b) := rfl

/-- The hash is its index above its residual (R95). -/
theorem hash_eq_index_resid (h : Imm) (b : Nat) : h.toNat = hashIndex h b * 2 ^ residWidth b + resid h b := by
  rw [hashIndex_eq_div, resid_eq_mod, residWidth_eq, Nat.div_add_mod']

theorem hashIndex_eq_extract (h : Imm) (hb : b ≤ 32) : hashIndex h b = (h.extractLsb' (32 - b) b).toNat := by
  rw [BitVec.extractLsb'_toNat]
  exact (Nat.mod_eq_of_lt (hashIndex_lt h hb)).symm

theorem resid_eq_extract (h : Imm) (b : Nat) : resid h b = (h.extractLsb' 0 (32 - b)).toNat := by
  rw [BitVec.extractLsb'_toNat, Nat.shiftRight_zero, resid_eq_mod]

/-- The residual's bits are those of the hash below the index (R97). -/
theorem testBit_resid (h : Imm) (b j : Nat) : (resid h b).testBit j = (decide (j < 32 - b) && h.getLsbD j) := by
  rw [resid_eq_mod, Nat.testBit_mod_two_pow, BitVec.testBit_toNat]

/-- Settles O33: quotient and remainder by 2^W, each also a slice of the word. -/
theorem hashSplitsIntoIndexAndResidual : Obligations.HashSplitsIntoIndexAndResidual := by
  intro h b h4 h18
  have hb : b ≤ 32 := by omega
  rw [residWidth_eq]
  exact ⟨by omega, by omega, by omega, hashIndex_lt h hb, resid_lt h b, hash_eq_index_resid h b,
    hashIndex_eq_extract h hb, resid_eq_extract h b⟩

/-! ### The leading-zero count -/

@[simp] theorem clz_zero (width : Nat) : clz width 0 = width := by simp [clz]

theorem clz_of_ne_zero (h0 : v ≠ 0) : clz width v = width - 1 - msb v := by simp [clz, h0]

theorem msb_lt (h0 : v ≠ 0) (hv : v < 2 ^ width) : msb v < width := (Nat.log2_lt h0).2 hv

section Leading

variable (hv : v < 2 ^ width)
include hv

theorem clz_lt (h0 : v ≠ 0) : clz width v < width := by
  have := msb_lt h0 hv
  rw [clz_of_ne_zero h0]
  omega

/-- The position below the counted zeros is that of the most significant bit. -/
theorem below_leading_zeros_eq_msb (h0 : v ≠ 0) : width - 1 - clz width v = msb v := by
  have := msb_lt h0 hv
  rw [clz_of_ne_zero h0]
  omega

/-- The counted bits are 0. -/
theorem testBit_leading_zero {j : Nat} (hj : width - clz width v ≤ j) : v.testBit j = false := by
  by_cases h0 : v = 0
  · simp [h0]
  · have hmsb : msb v + 1 ≤ j := by
      have := below_leading_zeros_eq_msb hv h0
      have := clz_lt hv h0
      omega
    exact Nat.testBit_lt_two_pow (Nat.lt_log2_self.trans_le (Nat.pow_le_pow_right (by norm_num) hmsb))

/-- The bit below the counted ones is 1. -/
theorem testBit_below_leading_zeros (h0 : v ≠ 0) : v.testBit (width - 1 - clz width v) = true := by
  rw [below_leading_zeros_eq_msb hv h0]
  exact Nat.testBit_log2 h0

theorem clz_eq_width_iff : clz width v = width ↔ v = 0 :=
  ⟨fun hc => by_contra fun h0 => (clz_lt hv h0).ne hc, fun h0 => by simp [h0]⟩

/-- No zero leads exactly when the top bit is 1. -/
theorem clz_eq_zero_iff (hw : 0 < width) : clz width v = 0 ↔ v.testBit (width - 1) = true := by
  constructor
  · intro hc
    have h0 : v ≠ 0 := by
      rw [ne_eq, ← clz_eq_width_iff hv]
      omega
    simpa [hc] using testBit_below_leading_zeros hv h0
  · intro htop
    by_contra hc
    have := testBit_leading_zero hv (j := width - 1) (by omega)
    simp [htop] at this

end Leading

/-- Settles O34: the count is read off the most significant bit, above which every bit is 0 and which is 1 itself. -/
theorem leadingZerosAreCountedInTheResidual : Obligations.LeadingZerosAreCountedInTheResidual := by
  refine ⟨fun width v hv => ⟨clz_le width v, clz_zero width, fun j _ hj => testBit_leading_zero hv hj, fun h0 => ?_⟩, ?_⟩
  · exact ⟨clz_lt hv h0, testBit_below_leading_zeros hv h0, clz_of_ne_zero h0, Nat.log2_self_le h0, Nat.lt_log2_self⟩
  · intro h b j h4 h18
    have hj : j < 32 - b ↔ j ≤ 31 - b := by omega
    simp only [testBit_resid, hj]

/-! ### The datapath with one shift and one clamp -/

theorem msb_mul_two_pow (h0 : v ≠ 0) (b : Nat) : msb (v * 2 ^ b) = msb v + b := by
  rw [msb, Nat.log2_eq_iff (by positivity), add_right_comm, pow_add, pow_add _ (msb v + 1)]
  exact ⟨Nat.mul_le_mul_right _ (Nat.log2_self_le h0), Nat.mul_lt_mul_of_pos_right Nat.lt_log2_self (by positivity)⟩

/-- Shifting a number to the left within a word that much wider keeps the count, unless the number is 0. -/
theorem clz_mul_two_pow (h0 : v ≠ 0) (b : Nat) : clz (width + b) (v * 2 ^ b) = clz width v := by
  rw [clz_of_ne_zero h0, clz_of_ne_zero (by positivity), msb_mul_two_pow h0]
  omega

/-- The barrel shift left-aligns the residual (R99). -/
theorem shifted_hash_eq (h : Imm) (hb : b ≤ 32) : (h.toNat <<< b) % 2 ^ 32 = resid h b * 2 ^ b := by
  rw [resid_eq_mod, ← Nat.mul_mod_mul_right, ← pow_add, Nat.sub_add_cancel hb, Nat.shiftLeft_eq]

/-- Settles O35: the clamp acts on residual 0 only, any other keeps its count when it is left-aligned. -/
theorem leadingZeroDatapathsAgree : Obligations.LeadingZeroDatapathsAgree := by
  intro h b h4 h18
  have hb : b ≤ 32 := by omega
  rw [shifted_hash_eq h hb]
  by_cases h0 : resid h b = 0
  · simp [h0]
  · have hclz := clz_mul_two_pow (width := 32 - b) h0 b
    rw [Nat.sub_add_cancel hb] at hclz
    rw [hclz, min_eq_left (clz_le _ _)]

/-! ### The rank -/

theorem rank_eq_one_iff (h : Imm) (hb : b < 32) : rank h b = 1 ↔ h.getLsbD (31 - b) = true := by
  have hclz := clz_eq_zero_iff (resid_lt h b) (by rw [residWidth_eq]; omega)
  have htop : residWidth b - 1 = 31 - b := by rw [residWidth_eq]; omega
  rw [htop, testBit_resid] at hclz
  simpa [rank, show 31 - b < 32 - b by omega] using hclz

theorem rank_eq_max_iff (h : Imm) (hb : b ≤ 32) : rank h b = 33 - b ↔ resid h b = 0 := by
  have hmax : 33 - b = 1 + residWidth b := by rw [residWidth_eq]; omega
  rw [← clz_eq_width_iff (resid_lt h b), rank, hmax, Nat.add_left_cancel_iff]

/-- Settles O36: the least rank is a count of 0, the greatest a count of all W bits. -/
theorem rankStaysInItsRange : Obligations.RankStaysInItsRange := by
  intro h b h4 h18
  have hle : rank h b ≤ 32 - b + 1 := rank_le_rankMax h b
  exact ⟨rank_pos h b, by omega, rank_lt_64 h b, rank_eq_one_iff h (by omega), rank_eq_max_iff h (by omega)⟩

/-! ### One ADD -/

/-- The estimator after an ADD of h (R102). -/
def Estimator.addHash (e : Estimator) (h : Imm) : Estimator := e.track (hashIndex h e.b.toNat) (rank h e.b.toNat)

theorem exec_add (hk : bank s d = some e) (h : Imm) :
    exec (.add d h) s = .next (setResponse 0 (setBank s d (e.addHash h))) := by
  refine (execAdd_ok hk h).trans ?_
  simp [Estimator.addHash]

@[simp] theorem addHash_b (e : Estimator) (h : Imm) : (e.addHash h).b = e.b := rfl

/-- The cell at the index rises to the rank, the others stay (R102). -/
theorem addHash_cell (e : Estimator) (h : Imm) (j : Nat) :
    ((e.addHash h).regs[j]?).map BitVec.toNat =
      (e.regs[j]?).map fun v => if hashIndex h e.b.toNat = j then max v.toNat (rank h e.b.toNat) else v.toNat := by
  rw [Estimator.addHash, getElem?_track]
  split
  · simp [Function.comp_def]
  · rfl

theorem addHash_cell_ne (e : Estimator) (h : Imm) {j : Nat} (hj : j ≠ hashIndex h e.b.toNat) :
    (e.addHash h).regs[j]? = e.regs[j]? := by
  rw [Estimator.addHash, getElem?_track, if_neg hj.symm]

/-- In a legal bank the indexed cell exists (R44). -/
theorem isSome_indexed_cell (he : e.ok = true) (h : Imm) : (e.regs[hashIndex h e.b.toNat]?).isSome = true := by
  obtain ⟨-, h18, hlen, -⟩ := (ok_iff e).1 he
  simpa [hlen] using hashIndex_lt h (b := e.b.toNat) (by omega)

theorem cell_eq_of_bank (hk : bank s d = some e) (j : Nat) : cell s d j = e.regs[j]? := by simp [cell, hk]

theorem prec_eq_of_bank (hk : bank s d = some e) : prec s d = some e.b.toNat := by simp [prec, hk]

theorem bank_of_written (s : State) (d : BankId) (e : Estimator) :
    bank (setResponse 0 (setBank s d e)) d = some e := bank_setBank_same s d e

/-- Settles O37: ADD puts `addHash` into its bank, which touches the indexed cell alone. -/
theorem addRaisesItsCellToTheRank : Obligations.AddRaisesItsCellToTheRank := by
  intro d h s e hk
  have hk' := bank_of_written s d (e.addHash h)
  refine ⟨_, exec_add hk h, rfl, by rw [prec_eq_of_bank hk, prec_eq_of_bank hk', addHash_b], ?_⟩
  simp only [← hashIndex_eq_div, cell_eq_of_bank hk, cell_eq_of_bank hk']
  refine ⟨?_, fun j => addHash_cell_ne e h, fun k hne => by simp [bank_setBank_ne s d _ hne], ⟨rfl, rfl, rfl, rfl, rfl⟩,
    fun he => isSome_indexed_cell he h⟩
  rw [addHash_cell]
  simp

/-! ### Lists of ADDs -/

/-- The greatest rank among the hashes with index i, 0 if there is none (R106). -/
def maxRank (b i : Nat) (hs : List Imm) : Nat :=
  ((hs.filter fun h => hashIndex h b = i).map fun h => rank h b).foldr max 0

theorem maxRank_cons (b i : Nat) (h : Imm) (hs : List Imm) :
    maxRank b i (h :: hs) = if hashIndex h b = i then max (rank h b) (maxRank b i hs) else maxRank b i hs := by
  by_cases hi : hashIndex h b = i <;> simp [maxRank, hi]

theorem maxRank_le_iff (b i n : Nat) (hs : List Imm) :
    maxRank b i hs ≤ n ↔ ∀ h ∈ hs, hashIndex h b = i → rank h b ≤ n := by
  induction hs with
  | nil => simp [maxRank]
  | cons h hs ih => by_cases hi : hashIndex h b = i <;> simp [maxRank_cons, hi, ih]

/-- Only the set of hashes matters to the greatest rank. -/
theorem maxRank_congr {hs hs' : List Imm} (hmem : ∀ h, h ∈ hs' ↔ h ∈ hs) (b i : Nat) :
    maxRank b i hs' = maxRank b i hs :=
  eq_of_forall_ge_iff fun n => by simp only [maxRank_le_iff, hmem]

/-- The estimator after ADDs of the hashes hs, one after the other. -/
def Estimator.addAll (e : Estimator) (hs : List Imm) : Estimator := hs.foldl Estimator.addHash e

@[simp] theorem addAll_cons (e : Estimator) (h : Imm) (hs : List Imm) :
    e.addAll (h :: hs) = (e.addHash h).addAll hs := rfl

@[simp] theorem addAll_b (e : Estimator) (hs : List Imm) : (e.addAll hs).b = e.b := by
  induction hs generalizing e with
  | nil => rfl
  | cons h hs ih => rw [addAll_cons, ih, addHash_b]

/-- Each cell rises to the greatest rank of the hashes with its index. -/
theorem addAll_cell (e : Estimator) (hs : List Imm) (j : Nat) :
    ((e.addAll hs).regs[j]?).map BitVec.toNat = (e.regs[j]?).map fun v => max v.toNat (maxRank e.b.toNat j hs) := by
  induction hs generalizing e with
  | nil => simp [Estimator.addAll, maxRank]
  | cons h hs ih =>
    calc ((e.addAll (h :: hs)).regs[j]?).map BitVec.toNat
      _ = (((e.addHash h).regs[j]?).map BitVec.toNat).map (max · (maxRank e.b.toNat j hs)) := by
        rw [addAll_cons, ih, Option.map_map]
        rfl
      _ = (e.regs[j]?).map fun v => max v.toNat (maxRank e.b.toNat j (h :: hs)) := by
        rw [addHash_cell, Option.map_map, maxRank_cons]
        by_cases hi : hashIndex h e.b.toNat = j <;> simp [hi, Function.comp_def, max_assoc]

/-- Only the set of hashes matters to the estimator (R105, R106). -/
theorem addAll_congr {hs hs' : List Imm} (hmem : ∀ h, h ∈ hs' ↔ h ∈ hs) (e : Estimator) :
    e.addAll hs' = e.addAll hs := by
  refine Estimator.ext_cells (by simp) fun j => ?_
  have hcell : ((e.addAll hs').regs[j]?).map BitVec.toNat = ((e.addAll hs).regs[j]?).map BitVec.toNat := by
    rw [addAll_cell, addAll_cell, maxRank_congr hmem]
  exact Option.map_injective (fun _ _ => BitVec.eq_of_toNat_eq) hcell

theorem execList_cons {i : Instr} {t : State} (hx : exec i s = .next t) (is : List Instr) :
    execList (i :: is) s = execList is t := by
  simp [execList, hx]

/-- After the first success, ADDs into its bank change nothing but the estimator there. -/
theorem execList_adds_after (s : State) (d : BankId) (e : Estimator) (hs : List Imm) :
    execList (hs.map (.add d)) (setResponse 0 (setBank s d e)) = some (setResponse 0 (setBank s d (e.addAll hs))) := by
  induction hs generalizing e with
  | nil => rfl
  | cons h hs ih =>
    rw [List.map_cons, execList_cons (exec_add (bank_of_written s d e) h), setResponse_setBank_again, ih, addAll_cons]

theorem execList_adds (hk : bank s d = some e) (h : Imm) (hs : List Imm) :
    execList ((h :: hs).map (.add d)) s = some (setResponse 0 (setBank s d (e.addAll (h :: hs)))) := by
  rw [List.map_cons, execList_cons (exec_add hk h), execList_adds_after, addAll_cons]

/-- Settles O38: n + 1 copies of a hash are, as a set, the one hash (`addAll_congr`). -/
theorem addIsIdempotent : Obligations.AddIsIdempotent := by
  intro d h s hv
  obtain ⟨e, hk⟩ := (valid_iff s d).1 hv
  refine ⟨_, exec_add hk h, fun n => ?_⟩
  have hset : e.addAll (h :: List.replicate n h) = e.addAll [h] := addAll_congr (by simp [List.mem_replicate]) e
  have hlist : List.replicate (n + 1) (Instr.add d h) = (h :: List.replicate n h).map (.add d) := by
    simp [List.replicate_succ]
  rw [hlist, execList_adds hk, hset]
  rfl

/-- Settles O39: two hashes are the same set in either order (`addAll_congr`). -/
theorem addsCommute : Obligations.AddsCommute := by
  intro d h₁ h₂ s hv
  obtain ⟨e, hk⟩ := (valid_iff s d).1 hv
  have hset : e.addAll [h₂, h₁] = e.addAll [h₁, h₂] := addAll_congr (by simp [or_comm]) e
  exact ⟨_, execList_adds hk h₁ [h₂], hset ▸ execList_adds hk h₂ [h₁]⟩

theorem execList_create_adds (hm : validM m = true) (d : BankId) (s : State) (hs : List Imm) :
    execList (.create d m :: hs.map (.add d)) s =
      some (setResponse 0 (setBank s d ((Estimator.fresh m.toNat).addAll hs))) := by
  have hcreate : exec (.create d m) s = .next (setResponse 0 (setBank s d (Estimator.fresh m.toNat))) :=
    (execCreate_ok hm d s).trans (by simp)
  rw [execList_cons hcreate, execList_adds_after]

/-- Settles O40: a created bank holds 0 in every cell, and `addAll` raises each to the greatest rank of its hashes. -/
theorem bankHoldsTheMaximaOfItsHashes : Obligations.BankHoldsTheMaximaOfItsHashes := by
  intro d m b s hs h4 h18 hm
  have hvalid : validM m = true := (validM_iff m).2 ⟨b, h4, h18, hm⟩
  have hb : (Estimator.fresh m.toNat).b.toNat = b := fresh_b h18 hm
  have hk := bank_of_written s d ((Estimator.fresh m.toNat).addAll hs)
  refine ⟨_, execList_create_adds hvalid d s hs, by rw [prec_eq_of_bank hk, addAll_b, hb], fun i hi => ?_, fun hs' hmem => ?_⟩
  · have hzero : (Estimator.fresh m.toNat).regs[i]? = some 0 := by simp [Estimator.fresh, hm, hi]
    rw [cell_eq_of_bank hk, addAll_cell, hb, hzero]
    simp [maxRank]
  · rw [execList_create_adds hvalid, addAll_congr hmem]

end Sys2Proof.Machine

/-! PROOFS. The statements of 42_count.md: the accumulator and the predicates of the engine (R121, R125 to R127), its paths
against the reference definition (R139), the logarithm unit (R129), the range of the estimate (R138), and COUNT itself (R142
to R146). -/

namespace Sys2Proof.Machine

open Reference

variable {e : Estimator} {a b zacc vcnt : Nat}

/-! ### The power unit and the Z accumulator -/

theorem powerUnit_eq_div (r : RegCell) : powerUnit r = 2 ^ 32 / 2 ^ r.toNat := Nat.shiftRight_eq_div_pow _ _

theorem powerUnit_of_le {r : RegCell} (hr : r.toNat ≤ 32) : powerUnit r = 2 ^ (32 - r.toNat) := by
  rw [powerUnit_eq_div, Nat.pow_div hr (by norm_num)]

theorem powerUnit_of_ge {r : RegCell} (hr : 33 ≤ r.toNat) : powerUnit r = 0 := by
  rw [powerUnit_eq_div]
  exact Nat.div_eq_of_lt (Nat.pow_lt_pow_right (by norm_num) hr)

/-- No fraction bit of `2^-r` is lost in Q.32 (R121). -/
theorem cast_powerUnit {r : RegCell} (hr : r.toNat ≤ 32) : (powerUnit r : ℚ) = 1 / 2 ^ r.toNat * 2 ^ 32 := by
  rw [powerUnit_of_le hr, Nat.cast_pow, Nat.cast_two, pow_sub₀ _ two_ne_zero hr]
  ring

theorem cast_zAcc {regs : List RegCell} (h : ∀ r ∈ regs, r.toNat ≤ 32) :
    (zAcc regs : ℚ) = indicatorSum regs * 2 ^ 32 := by
  induction regs with
  | nil => simp [indicatorSum]
  | cons r rs ih =>
    obtain ⟨hr, hrs⟩ := List.forall_mem_cons.1 h
    rw [zAcc_cons, Nat.cast_add, cast_powerUnit hr, ih hrs]
    simp [indicatorSum, add_mul]

section Legal

variable (he : e.ok = true)
include he

theorem ok_b_le : e.b.toNat ≤ 18 := by
  obtain ⟨-, h18, -⟩ := (ok_iff e).1 he
  exact h18

/-- The greatest rank is 29, at precision 4 (R25). -/
theorem ok_cell_le {r : RegCell} (hr : r ∈ e.regs) : r.toNat ≤ 32 := by
  obtain ⟨h4, -, -, hcells⟩ := (ok_iff e).1 he
  have hle : r.toNat ≤ 32 - e.b.toNat + 1 := hcells r hr
  omega

/-- Every power unit in a legal bank is at least that of the greatest rank. -/
theorem le_powerUnit_of_ok {r : RegCell} (hr : r ∈ e.regs) : 2 ^ (e.b.toNat - 1) ≤ powerUnit r := by
  obtain ⟨h4, h18, -, hcells⟩ := (ok_iff e).1 he
  have hle : r.toNat ≤ 32 - e.b.toNat + 1 := hcells r hr
  rw [powerUnit_of_le (ok_cell_le he hr)]
  exact Nat.pow_le_pow_right (by norm_num) (by omega)

theorem zAcc_ge : 2 ^ (2 * e.b.toNat - 1) ≤ zAcc e.regs := by
  obtain ⟨h4, -, hlen, -⟩ := (ok_iff e).1 he
  have hsum := List.card_nsmul_le_sum (e.regs.map powerUnit) (2 ^ (e.b.toNat - 1))
    (List.forall_mem_map.2 fun r hr => le_powerUnit_of_ok he hr)
  rw [List.length_map, hlen, smul_eq_mul, ← pow_add] at hsum
  rwa [show 2 * e.b.toNat - 1 = e.b.toNat + (e.b.toNat - 1) by omega]

theorem zAcc_le : zAcc e.regs ≤ 2 ^ (e.b.toNat + 32) := by
  obtain ⟨-, -, hlen, -⟩ := (ok_iff e).1 he
  have hsum := List.sum_le_card_nsmul (e.regs.map powerUnit) (2 ^ 32)
    (List.forall_mem_map.2 fun r _ => powerUnit_le r)
  rwa [List.length_map, hlen, smul_eq_mul, ← pow_add] at hsum

theorem zAcc_pos : 0 < zAcc e.regs := (Nat.two_pow_pos _).trans_le (zAcc_ge he)

end Legal

/-- Settles O43: each cell of a legal bank is at most 29, so no power unit loses a bit, and the bounds are those of the 2^b
cells. -/
theorem zAccumulatorIsExact : Obligations.ZAccumulatorIsExact := by
  refine ⟨fun r => powerUnit_of_le, fun r => powerUnit_of_ge, fun e he => ?_⟩
  have h50 : 2 ^ (e.b.toNat + 32) ≤ 2 ^ 50 :=
    Nat.pow_le_pow_right (by norm_num) (Nat.add_le_add_right (ok_b_le he) 32)
  exact ⟨cast_zAcc fun r => ok_cell_le he, zAcc_ge he, zAcc_le he, h50,
    ((zAcc_le he).trans h50).trans_lt (by norm_num)⟩

/-! ### The predicates on the rational raw estimate -/

theorem satP_iff : satP a b zacc = true ↔ zacc = 0 ∨ zacc <<< 32 ≤ numerator a b := by simp [satP]

theorem cast_numerator (a b : Nat) : (numerator a b : ℚ) = a * (2 ^ b) ^ 2 := by
  rw [numerator, Nat.shiftLeft_eq, mul_comm 2 b, pow_mul]
  push_cast
  rfl

section Predicates

variable (hz : 0 < zacc)
include hz

theorem satP_iff_rat : satP a b zacc = true ↔ (2 : ℚ) ^ 32 ≤ numerator a b / zacc := by
  rw [satP_iff, or_iff_right hz.ne', le_div_iff₀ (by exact_mod_cast hz), Nat.shiftLeft_eq, mul_comm]
  exact_mod_cast Iff.rfl

theorem smallP_iff_rat : smallP a b zacc = true ↔ (numerator a b : ℚ) / zacc ≤ 5 / 2 * 2 ^ b := by
  have hscale : (0 : ℚ) < 2 ^ b / 2 := by positivity
  have hle : a <<< (b + 1) ≤ 5 * zacc ↔ (a : ℚ) * 2 ^ (b + 1) ≤ 5 * zacc := by
    rw [Nat.shiftLeft_eq]
    exact_mod_cast Iff.rfl
  rw [smallP, decide_eq_true_eq, hle, div_le_iff₀ (by exact_mod_cast hz), cast_numerator,
    ← mul_le_mul_iff_of_pos_right hscale]
  ring_nf

theorem largeP_iff_rat : largeP a b zacc = true ↔ (2 : ℚ) ^ 32 / 30 < numerator a b / zacc := by
  rw [largeP, decide_eq_true_eq, div_lt_div_iff₀ (by norm_num) (by exact_mod_cast hz), Nat.shiftLeft_eq, mul_comm zacc,
    mul_comm Config.largeDiv]
  exact_mod_cast Iff.rfl

end Predicates

/-- Settles O44: the shift by 32 is the threshold 2^32 times the divisor, and SATP is the first path tested. -/
theorem saturationIsExact : Obligations.SaturationIsExact :=
  ⟨fun _ _ _ => satP_iff, fun _ _ _ => satP_iff_rat,
    fun _ _ _ h => estimateWith_saturate (by simp [choosePath, h]), fun _ he => (zAcc_pos he).ne'⟩

/-- Settles O45: each predicate is its inequality on rationals, cleared of the divisor. -/
theorem rangePredicatesAreExact : Obligations.RangePredicatesAreExact :=
  fun _ _ _ hz => ⟨smallP_iff_rat hz, largeP_iff_rat hz⟩

/-! ### The paths -/

/-- The order of rule R128 as conditions that exclude each other. -/
theorem choosePath_iff (a b zacc vcnt : Nat) :
    (choosePath a b zacc vcnt = .saturate ↔ satP a b zacc = true) ∧
    (choosePath a b zacc vcnt = .linear ↔ satP a b zacc = false ∧ smallP a b zacc = true ∧ vcnt ≠ 0) ∧
    (choosePath a b zacc vcnt = .large ↔
      satP a b zacc = false ∧ ¬ (smallP a b zacc = true ∧ vcnt ≠ 0) ∧ largeP a b zacc = true) ∧
    (choosePath a b zacc vcnt = .raw ↔
      satP a b zacc = false ∧ ¬ (smallP a b zacc = true ∧ vcnt ≠ 0) ∧ largeP a b zacc = false) := by
  have hsmall : (smallP a b zacc && vcnt != 0) = true ↔ smallP a b zacc = true ∧ vcnt ≠ 0 := by simp
  unfold choosePath
  by_cases hv : smallP a b zacc = true ∧ vcnt ≠ 0
  · cases satP a b zacc <;> simp [hv]
  · cases satP a b zacc <;> cases largeP a b zacc <;> simp [hsmall, hv]

theorem zeroCount_eq_vCnt (regs : List RegCell) : zeroCount regs = vCnt regs := by
  have hzero (r : RegCell) : decide (r.toNat = 0) = (r == 0) := by
    rw [Bool.eq_iff_iff, decide_eq_true_eq, beq_iff_eq, BitVec.toNat_eq]
    rfl
  simp only [zeroCount, vCnt, hzero, List.countP_eq_length_filter]

/-- The two Q.32 scales, of alpha and of Z, cancel (R124). -/
theorem rawEstimate_eq (he : e.ok = true) (a : Nat) :
    rawEstimate (a / 2 ^ 32) e.b.toNat e.regs = numerator a e.b.toNat / zAcc e.regs := by
  rw [cast_numerator, cast_zAcc fun r => ok_cell_le he, rawEstimate]
  ring

/-- The small range ends far below the large one (R115). -/
theorem small_range_lt_large (hb : b ≤ 18) : (5 / 2 * 2 ^ b : ℚ) < 2 ^ 32 / 30 := by
  calc (5 / 2 * 2 ^ b : ℚ) ≤ 5 / 2 * 2 ^ 18 := by gcongr; norm_num
    _ < 2 ^ 32 / 30 := by norm_num

/-- The path as conditions on E0 and V (R139): the small range lies below the large one and that below 2^32, so what R128
tests before a predicate is false wherever it holds. -/
theorem choosePath_iff_rat (hb : b ≤ 18) (hz : 0 < zacc) {q : ℚ} (hq : q = numerator a b / zacc) :
    (choosePath a b zacc vcnt = .saturate ↔ 2 ^ 32 ≤ q) ∧
    (choosePath a b zacc vcnt = .linear ↔ q ≤ 5 / 2 * 2 ^ b ∧ vcnt ≠ 0) ∧
    (choosePath a b zacc vcnt = .large ↔ q < 2 ^ 32 ∧ 2 ^ 32 / 30 < q) ∧
    (choosePath a b zacc vcnt = .raw → ¬ (q ≤ 5 / 2 * 2 ^ b ∧ vcnt ≠ 0) ∧ q ≤ 2 ^ 32 / 30) := by
  have hbelow_of_small (h : q ≤ 5 / 2 * 2 ^ b) : q < 2 ^ 32 / 30 := h.trans_lt (small_range_lt_large hb)
  have hsat_of_small (h : q ≤ 5 / 2 * 2 ^ b) : q < 2 ^ 32 := (hbelow_of_small h).trans (by norm_num)
  obtain ⟨hsat, hlin, hlrg, hraw⟩ := choosePath_iff a b zacc vcnt
  rw [hsat, hlin, hlrg, hraw]
  simp only [← Bool.not_eq_true, satP_iff_rat hz, smallP_iff_rat hz, largeP_iff_rat hz, ← hq, not_le, not_lt, true_and]
  exact ⟨and_iff_right_of_imp fun h => hsat_of_small h.1,
    and_congr_right fun _ => and_iff_right_of_imp fun h hs => (hbelow_of_small hs.1).not_gt h, And.right⟩

/-! ### The raw path -/

/-- Truncating to Q.16 first loses nothing (R133). -/
theorem roundQ16_e0Q16 (hz : 0 < zacc) : roundQ16 (e0Q16 a b zacc) = (2 * numerator a b + zacc) / (2 * zacc) := by
  simp only [roundQ16, e0Q16, Nat.shiftLeft_eq, Nat.shiftRight_eq_div_pow, Config.ef]
  calc (numerator a b * 2 ^ 16 / zacc + 2 ^ 15) / 2 ^ 16
    _ = (2 * numerator a b + zacc) * 2 ^ 15 / (2 * zacc * 2 ^ 15) := by
      rw [← Nat.add_mul_div_right _ _ hz, Nat.div_div_eq_div_mul]
      ring_nf
    _ = (2 * numerator a b + zacc) / (2 * zacc) := Nat.mul_div_mul_right _ _ (by norm_num)

/-- The raw path rounds E0 half up (R133). -/
theorem roundQ16_e0Q16_eq_floor (hz : 0 < zacc) :
    (roundQ16 (e0Q16 a b zacc) : ℤ) = ⌊(numerator a b / zacc + 1 / 2 : ℝ)⌋ := by
  have hz' : (zacc : ℝ) ≠ 0 := by exact_mod_cast hz.ne'
  have hfrac : (numerator a b / zacc + 1 / 2 : ℝ) = ((2 * numerator a b + zacc : ℕ) : ℝ) / (2 * zacc : ℕ) := by
    push_cast
    field_simp
  rw [roundQ16_e0Q16 hz, hfrac, ← Nat.floor_div_eq_div (K := ℝ), Int.natCast_floor_eq_floor (by positivity)]

/-- Neither correction applies to a raw estimate in neither range. -/
theorem countRef_of_uncorrected {alpha : ℚ} {regs : List RegCell}
    (hs : ¬ (rawEstimate alpha b regs ≤ 5 / 2 * 2 ^ b ∧ zeroCount regs ≠ 0))
    (hl : rawEstimate alpha b regs ≤ 2 ^ 32 / 30) :
    countRef alpha b regs = ⌊(rawEstimate alpha b regs : ℝ) + 1 / 2⌋ := by
  have hl' : ¬ (rawEstimate alpha b regs : ℝ) > 2 ^ 32 / 30 := by
    rw [not_lt]
    simpa using (Rat.cast_le (K := ℝ)).2 hl
  rw [countRef, smallCorrected, if_neg hs, largeCorrected, if_neg hl']

/-- Settles O46: the engine's E0 is the reference's (`rawEstimate_eq`), so its exact predicates choose the reference's path,
and the raw path rounds that E0. -/
theorem engineFollowsTheReference : Obligations.EngineFollowsTheReference := by
  intro a e he
  have hz := zAcc_pos he
  have hq := rawEstimate_eq he a.toNat
  obtain ⟨hsat, hlin, hlarge, hraw⟩ := choosePath_iff_rat (vcnt := vCnt e.regs) (ok_b_le he) hz hq
  rw [zeroCount_eq_vCnt]
  refine ⟨hsat, hlin, hlarge, fun hp => ?_⟩
  obtain ⟨hs, hl⟩ := hraw hp
  rw [← zeroCount_eq_vCnt] at hs
  rw [countRef_of_uncorrected hs hl, hq, estimateWith_raw hp, roundQ16_e0Q16_eq_floor hz]
  push_cast
  rfl

/-! ### The logarithm unit -/

/-- The square of a mantissa, cut to Q.48, is at least 1 (R129). -/
theorem le_square_shift {x : Nat} (hx : 2 ^ 48 ≤ x) : 2 ^ 48 ≤ (x * x) >>> 48 := by
  rw [Nat.shiftRight_eq_div_pow, Nat.le_div_iff_mul_le (by norm_num)]
  exact Nat.mul_le_mul hx hx

theorem cast_shiftRight_le (x k : Nat) : ((x >>> k : ℕ) : ℝ) ≤ (x : ℝ) / 2 ^ k := by
  rw [Nat.shiftRight_eq_div_pow]
  exact_mod_cast (Nat.cast_div_le : ((x / 2 ^ k : ℕ) : ℝ) ≤ x / (2 ^ k : ℕ))

/-- log2 of a mantissa in Q.48. -/
noncomputable def mantissaLog (x : Nat) : ℝ := Real.logb 2 (x / 2 ^ 48)

theorem mantissaLog_nonneg {x : Nat} (hx : 2 ^ 48 ≤ x) : 0 ≤ mantissaLog x := by
  refine Real.logb_nonneg one_lt_two ?_
  rw [one_le_div (by positivity)]
  exact_mod_cast hx

/-- Squaring doubles the logarithm, and cutting to Q.48 can only lower it. -/
theorem mantissaLog_square_shift {x : Nat} (hx : 2 ^ 48 ≤ x) : mantissaLog ((x * x) >>> 48) ≤ 2 * mantissaLog x := by
  have hy : (0 : ℝ) < ((x * x) >>> 48 : ℕ) := by exact_mod_cast (Nat.two_pow_pos 48).trans_le (le_square_shift hx)
  have hcut : (((x * x) >>> 48 : ℕ) : ℝ) / 2 ^ 48 ≤ ((x : ℝ) / 2 ^ 48) ^ 2 := by
    rw [div_pow, sq ((2 : ℝ) ^ 48), ← div_div]
    gcongr
    exact (cast_shiftRight_le _ _).trans_eq (by rw [Nat.cast_mul, sq])
  calc mantissaLog ((x * x) >>> 48) ≤ Real.logb 2 (((x : ℝ) / 2 ^ 48) ^ 2) :=
        Real.logb_le_logb_of_le one_lt_two (by positivity) hcut
    _ = 2 * mantissaLog x := by rw [Real.logb_pow, mantissaLog]; norm_num

/-- Halving takes 1 off the logarithm, and cutting can only lower it. -/
theorem mantissaLog_half {y : Nat} (hy : 2 ^ 49 ≤ y) : mantissaLog (y >>> 1) ≤ mantissaLog y - 1 := by
  have hpos : 0 < y >>> 1 := by rw [Nat.shiftRight_eq_div_pow]; omega
  have hcut : ((y >>> 1 : ℕ) : ℝ) ≤ y / 2 := by simpa using cast_shiftRight_le y 1
  have hy0 : (y : ℝ) / 2 ^ 48 ≠ 0 := by
    have : y ≠ 0 := by omega
    positivity
  calc mantissaLog (y >>> 1) ≤ Real.logb 2 (y / 2 ^ 48 / 2) := by
        refine Real.logb_le_logb_of_le one_lt_two (by positivity) ?_
        rw [div_right_comm]
        gcongr
    _ = mantissaLog y - 1 := by rw [Real.logb_div hy0 two_ne_zero, Real.logb_self_eq_one one_lt_two, mantissaLog]

/-- Each squaring appends one bit of the logarithm, from below (R129). -/
theorem log2Bits_le (k n : Nat) {x : Nat} (hx : 2 ^ 48 ≤ x) : (log2Bits k x n : ℝ) ≤ (n + mantissaLog x) * 2 ^ k := by
  induction k generalizing x n with
  | zero => simpa [log2Bits] using mantissaLog_nonneg hx
  | succ k ih =>
    have hy := le_square_shift hx
    have hlog := mantissaLog_square_shift hx
    simp only [log2Bits, shiftLeft_one_or_one, Config.f]
    split
    case isTrue htwo =>
      have hhalf := mantissaLog_half htwo
      calc _ ≤ ((2 * n + 1 : ℕ) + mantissaLog ((x * x) >>> 48 >>> 1)) * 2 ^ k :=
            ih (2 * n + 1) (by rw [Nat.shiftRight_eq_div_pow]; omega)
        _ ≤ (2 * (n + mantissaLog x)) * 2 ^ k := by
            gcongr
            push_cast
            linarith
        _ = (n + mantissaLog x) * 2 ^ (k + 1) := by ring
    case isFalse =>
      calc _ ≤ ((n <<< 1 : ℕ) + mantissaLog ((x * x) >>> 48)) * 2 ^ k := ih (n <<< 1) hy
        _ ≤ (2 * (n + mantissaLog x)) * 2 ^ k := by
            gcongr
            rw [Nat.shiftLeft_eq]
            push_cast
            linarith
        _ = (n + mantissaLog x) * 2 ^ (k + 1) := by ring

section Mantissa

variable {n : Nat} (hn : 1 ≤ n) (hlt : n < 2 ^ 49)
include hn hlt

theorem msb_le_48 : msb n ≤ 48 := Nat.lt_succ_iff.1 (msb_lt (by omega) hlt)

/-- The normalised mantissa is at least 1. -/
theorem le_normalised : 2 ^ 48 ≤ n <<< (48 - msb n) := by
  rw [Nat.shiftLeft_eq]
  calc 2 ^ 48 = 2 ^ msb n * 2 ^ (48 - msb n) := by rw [← pow_add, Nat.add_sub_cancel' (msb_le_48 hn hlt)]
    _ ≤ n * 2 ^ (48 - msb n) := Nat.mul_le_mul_right _ (Nat.log2_self_le (by omega))

/-- Normalisation loses no bit: the mantissa's logarithm is that of n without its integer part. -/
theorem mantissaLog_normalised : mantissaLog (n <<< (48 - msb n)) = Real.logb 2 n - msb n := by
  have hn0 : (n : ℝ) ≠ 0 := by exact_mod_cast (show n ≠ 0 by omega)
  have hfrac : ((n <<< (48 - msb n) : ℕ) : ℝ) / 2 ^ 48 = n / 2 ^ msb n := by
    rw [Nat.shiftLeft_eq, Nat.cast_mul, Nat.cast_pow, Nat.cast_two, pow_sub₀ _ two_ne_zero (msb_le_48 hn hlt)]
    field_simp
  rw [mantissaLog, hfrac, Real.logb_div hn0 (by positivity), Real.logb_pow, Real.logb_self_eq_one one_lt_two, mul_one]

theorem log2Q48_le : (log2Q48 n : ℝ) ≤ Real.logb 2 n * 2 ^ 48 := by
  have hbits := log2Bits_le 48 0 (le_normalised hn hlt)
  rw [mantissaLog_normalised hn hlt] at hbits
  rw [log2Q48_eq_add]
  push_cast at hbits ⊢
  linarith

end Mantissa

theorem log2Q48_integer_part (n : Nat) : msb n <<< 48 ≤ log2Q48 n ∧ log2Q48 n < (msb n + 1) <<< 48 := by
  have hbits := (log2Bits_bounds 48 (n <<< (48 - msb n)) 0).2
  rw [log2Q48_eq_add, Nat.shiftLeft_eq _ 48, Nat.shiftLeft_eq _ 48]
  omega

/-- The mantissa 1 stays 1 under squaring, so every bit it yields is 0. -/
theorem log2Bits_one (k n : Nat) : log2Bits k (2 ^ 48) n = n * 2 ^ k := by
  induction k generalizing n with
  | zero => simp [log2Bits]
  | succ k ih =>
    have hstep : log2Bits (k + 1) (2 ^ 48) n = log2Bits k (2 ^ 48) (n <<< 1) := rfl
    rw [hstep, ih, Nat.shiftLeft_eq]
    ring

theorem log2Q48_two_pow {k : Nat} (hk : k ≤ 48) : log2Q48 (2 ^ k) = k <<< 48 := by
  have hmsb : msb (2 ^ k) = k := Nat.log2_two_pow
  rw [log2Q48_eq_add, hmsb, Nat.shiftLeft_eq, ← pow_add, Nat.add_sub_cancel' hk, log2Bits_one, zero_mul, add_zero,
    Nat.shiftLeft_eq]

/-- Settles O47: by induction on the squarings, each of which doubles the logarithm of the mantissa and rounds down. -/
theorem logarithmUnitApproximatesFromBelow : Obligations.LogarithmUnitApproximatesFromBelow :=
  ⟨fun n hn hlt => ⟨log2Q48_le hn hlt, log2Q48_integer_part n⟩, fun _ => log2Q48_two_pow⟩

/-! ### The range of the estimate -/

theorem roundQ16_mono {p q : Nat} (h : p ≤ q) : roundQ16 p ≤ roundQ16 q := by
  simp only [roundQ16, Nat.shiftRight_eq_div_pow]
  gcongr

/-- The linear path answers most at b = 18 and V = 1 (R138). -/
theorem roundQ16_linearQ16_lt (hb : b ≤ 18) (v : Nat) : roundQ16 (linearQ16 b v) < 3280000 := by
  have hle : linearQ16 b v ≤ (18 <<< 48 * Config.ln2Q48) <<< 18 >>> 80 := by
    simp only [linearQ16, Nat.shiftLeft_eq, Nat.shiftRight_eq_div_pow]
    gcongr
    · exact (Nat.sub_le _ _).trans (Nat.mul_le_mul_right _ hb)
    · norm_num
  exact (roundQ16_mono hle).trans_lt (by decide)

/-- The large path answers most at N = 1 (R138). -/
theorem roundQ16_largeQ16_lt (e0 : Nat) : roundQ16 (largeQ16 e0) < 143000000000 := by
  have hle : largeQ16 e0 ≤ (48 <<< 48 * Config.ln2Q48) >>> 48 := by
    simp only [largeQ16, Nat.shiftRight_eq_div_pow]
    gcongr
    exact Nat.sub_le _ _
  exact (roundQ16_mono hle).trans_lt (by decide)

/-- The raw path answers no more than the large range's threshold, rounded (R138). -/
theorem roundQ16_e0Q16_lt (hz : 0 < zacc) (hl : largeP a b zacc = false) :
    30 * roundQ16 (e0Q16 a b zacc) < 2 ^ 32 + 30 := by
  have hnum : 30 * numerator a b ≤ zacc * 2 ^ 32 := by simpa [largeP, Nat.shiftLeft_eq] using hl
  have hdiv := Nat.div_mul_le_self (2 * numerator a b + zacc) (2 * zacc)
  rw [← roundQ16_e0Q16 hz] at hdiv
  refine lt_of_mul_lt_mul_right (a := 2 * zacc) ?_ (Nat.zero_le _)
  calc 30 * roundQ16 (e0Q16 a b zacc) * (2 * zacc)
    _ ≤ 30 * (2 * numerator a b + zacc) := by
      rw [mul_assoc]
      gcongr
    _ < (2 ^ 32 + 30) * (2 * zacc) := by omega

/-- Settles O48, path by path: an unsaturated value is below 2^38, and so is not the saturated one. -/
theorem estimateStaysInItsRange : Obligations.EstimateStaysInItsRange := by
  intro a e he
  have hsat_ne {v : Nat} (hv : v < 2 ^ 38) : v ≠ 2 ^ 64 - 1 := by omega
  cases hp : choosePath a.toNat e.b.toNat (zAcc e.regs) (vCnt e.regs) with
  | saturate => simp [estimateWith_saturate hp]
  | linear =>
    have hlt := roundQ16_linearQ16_lt (ok_b_le he) (vCnt e.regs)
    have h38 := hlt.trans (show 3280000 < 2 ^ 38 by norm_num)
    simpa [estimateWith_linear hp, hlt] using ⟨h38, hsat_ne h38⟩
  | large =>
    have hlt := roundQ16_largeQ16_lt (e0Q16 a.toNat e.b.toNat (zAcc e.regs))
    have h38 := hlt.trans (show 143000000000 < 2 ^ 38 by norm_num)
    simpa [estimateWith_large hp, hlt] using ⟨h38, hsat_ne h38⟩
  | raw =>
    obtain ⟨-, -, -, hraw⟩ := choosePath_iff a.toNat e.b.toNat (zAcc e.regs) (vCnt e.regs)
    have hlt := roundQ16_e0Q16_lt (zAcc_pos he) (hraw.1 hp).2.2
    have h38 : roundQ16 (e0Q16 a.toNat e.b.toNat (zAcc e.regs)) < 2 ^ 38 := by omega
    simpa [estimateWith_raw hp] using ⟨h38, hsat_ne h38, hlt⟩

/-- The estimate fits its 64-bit field (R138). -/
theorem estimateWith_value_lt (he : e.ok = true) (a : BitVec 32) :
    (estimateWith a e.b.toNat e.regs).value < 2 ^ 64 := by
  obtain ⟨hunsat, hsat, -⟩ := estimateStaysInItsRange a e he
  cases hflag : (estimateWith a e.b.toNat e.regs).sat with
  | false => exact (hunsat hflag).trans (by norm_num)
  | true =>
    rw [hsat.1 hflag]
    norm_num

/-- Settles O49: `estimateWith_empty`, which needs no lower bound on the precision. -/
theorem emptyEstimatorEstimatesZero : Obligations.EmptyEstimatorEstimatesZero :=
  fun a _ _ h18 => estimateWith_empty a h18

/-! ### COUNT -/

/-- Settles O41: the estimate fits the VALUE field, so it stands there whole. -/
theorem countAnswersTheEstimate : Obligations.CountAnswersTheEstimate := by
  intro k s e hk he
  refine ⟨_, execCount_ok hk, rfl, rspStatus_okWord _ _, rspZeros_okWord _ _, rspSat_okWord _ _, ?_⟩
  rw [setResponse_rspLatch, rspValue_okWord, BitVec.toNat_ofNat]
  exact Nat.mod_eq_of_lt (estimateWith_value_lt he _)

/-- What COUNT answers for a bank's content (R142). -/
def countWord : Option Estimator → ResponseWord
  | none => errorWord .notCreated
  | some e => okWord e.estimate.sat (BitVec.ofNat 64 e.estimate.value)

theorem exec_count (k : BankId) (s : State) : exec (.count k) s = .next (setResponse (countWord (bank s k)) s) := by
  cases hk : bank s k with
  | none => exact withBank_none hk _
  | some e => exact execCount_ok hk

/-- A command that does not succeed with k in RD leaves bank k alone (R27). -/
theorem exec_keeps_bank {i : Instr} {k : BankId} {s t : State} (hx : exec i s = .next t)
    (hdest : (dest i == some k) = true → rspStatus t.rspLatch ≠ 0) : bank t k = bank s k := by
  cases exec_cases hx with
  | error x ht => simp [ht]
  | answer sat v _ ht => simp [ht]
  | write d e hd ht =>
    have hne : k ≠ d := by
      rintro rfl
      exact hdest (by simp [hd]) (by simp [ht])
    rw [ht, setResponse_bank, bank_setBank_ne s d e hne]

theorem execList_keeps_bank {is : List Instr} {k : BankId} {s t : State}
    (hnone : NoneSucceeds (fun i => dest i == some k) is s) (hx : execList is s = some t) : bank t k = bank s k := by
  induction is generalizing s with
  | nil =>
    cases hx
    rfl
  | cons i is ih =>
    obtain ⟨u, hu, hdest, hrest⟩ := hnone
    rw [ih hrest (by rwa [execList_cons hu] at hx), exec_keeps_bank hu hdest]

/-- Settles O42: COUNT's response is a function of the bank (`exec_count`), which the commands between leave alone. -/
theorem countIsPureAndRepeatable : Obligations.CountIsPureAndRepeatable := by
  refine ⟨fun k s t hx => ?_, fun k is s t₁ t₂ t₃ h₁ hnone hx h₃ => ?_⟩
  · cases (exec_count k s).symm.trans hx
    rfl
  · cases (exec_count k s).symm.trans h₁
    cases (exec_count k t₂).symm.trans h₃
    rw [setResponse_rspLatch, setResponse_rspLatch, execList_keeps_bank hnone hx, setResponse_bank]

/-! ### COUNT can fall -/

/-- The hashes of program P5: rank 1 at the indices 0 to 14 of a bank of precision 4 (95_test_vectors.md). -/
def rankOneHashes : List Imm := (List.range 15).map fun k => BitVec.ofNat 32 (k <<< 28 + 0x08000000)

theorem count_value {k : BankId} {s : State} (hk : bank s k = some e) {n : Nat}
    (hest : e.estimate = ⟨n, false⟩) (hn : n < 2 ^ 64) :
    ∃ t, exec (.count k) s = .next t ∧ (rspValue t.rspLatch).toNat = n := by
  refine ⟨_, execCount_ok hk, ?_⟩
  simpa [hest] using hn

/-- The bank those ADDs fill. -/
def rankOneBank : Estimator := (Estimator.fresh (16 : Imm).toNat).addAll rankOneHashes

theorem rankOneBank_eq : rankOneBank = ⟨4, List.replicate 15 1 ++ [0]⟩ := by decide

theorem rankOneBank_addHash_eq : rankOneBank.addHash 0xF8000000 = ⟨4, List.replicate 16 1⟩ := by decide

theorem rankOneBank_estimate : rankOneBank.estimate = ⟨44, false⟩ := by
  rw [rankOneBank_eq]
  decide

theorem rankOneBank_addHash_estimate : (rankOneBank.addHash 0xF8000000).estimate = ⟨22, false⟩ := by
  rw [rankOneBank_addHash_eq]
  decide

/-- Settles O51 by program P5: with one cell still at 0 the linear path answers 44, and once that cell is 1 too the raw path
answers 22. -/
theorem countCanFallAfterAnAdd : Obligations.CountCanFallAfterAnAdd := by
  have hk := bank_of_written State.reset 0 rankOneBank
  have hk' := bank_of_written (setResponse 0 (setBank State.reset 0 rankOneBank)) 0 (rankOneBank.addHash 0xF8000000)
  obtain ⟨u, hu, hu44⟩ := count_value hk rankOneBank_estimate (by norm_num)
  obtain ⟨v, hv, hv22⟩ := count_value hk' rankOneBank_addHash_estimate (by norm_num)
  exact ⟨_, 0xF8000000, _, _, u, v, execList_create_adds (by decide) 0 State.reset rankOneHashes, hu, hu44,
    exec_add hk _, hv, hv22⟩

end Sys2Proof.Machine

/-! PROOFS. The statements of 43_merge.md: what MERGE writes and leaves alone (R156, R158), the copy of a bank (R159,
R160), the algebra of the union, and the union of two banks of hashes (R161). -/

namespace Sys2Proof.Machine

variable {s t : State} {d a b : BankId} {x y e : Estimator} {m : Imm}

/-! ### What MERGE does -/

theorem exec_merge (ha : bank s a = some x) (hb : bank s b = some y) (hxy : x.b = y.b) (d : BankId) :
    exec (.merge d a b) s = .next (setResponse 0 (setBank s d (x.union y))) := by
  refine (execMerge_ok ha hb hxy d).trans ?_
  simp

/-- A cell of the union is there when both sources have it, and is the greater of the two (R156). -/
theorem union_cell (x y : Estimator) (j : Nat) :
    (x.union y).regs[j]? = Option.map₂ cellMax x.regs[j]? y.regs[j]? := by
  rw [Estimator.union, getElem?_unionCells]
  cases x.regs[j]? <;> cases y.regs[j]? <;> rfl

/-- As numbers, the cells of the union are the maxima of the sources' cells. -/
theorem union_cell_toNat (x y : Estimator) (j : Nat) :
    ((x.union y).regs[j]?).map BitVec.toNat =
      Option.map₂ max ((x.regs[j]?).map BitVec.toNat) ((y.regs[j]?).map BitVec.toNat) := by
  rw [union_cell, Option.map_map₂_distrib cellMax_toNat]

/-- Precisions read as numbers are equal only when the precisions are. -/
theorem b_eq_of_prec_eq (ha : bank s a = some x) (hb : bank s b = some y) (hp : prec s a = prec s b) : x.b = y.b := by
  rw [prec_eq_of_bank ha, prec_eq_of_bank hb] at hp
  exact BitVec.eq_of_toNat_eq (Option.some.inj hp)

/-- Settles O52: both sources are read in the state before, and the one bank written holds their union. -/
theorem mergeWritesTheUnion : Obligations.MergeWritesTheUnion := by
  intro d a b s hva hvb hp
  obtain ⟨x, ha⟩ := (valid_iff s a).1 hva
  obtain ⟨y, hb⟩ := (valid_iff s b).1 hvb
  have hd := bank_of_written s d (x.union y)
  refine ⟨_, exec_merge ha hb (b_eq_of_prec_eq ha hb hp) d, rfl, by rw [prec_eq_of_bank hd, prec_eq_of_bank ha, union_b],
    fun j v => ?_, fun k hk => bank_setBank_ne s d _ hk, rfl, rfl, rfl, rfl, rfl⟩
  rw [cell_eq_of_bank hd, cell_eq_of_bank ha, cell_eq_of_bank hb, union_cell_toNat,
    Option.map₂_eq_some_iff]
  simp [eq_comm]

/-! ### The copy of a bank -/

/-- Writing into a bank what it holds already changes no bank. -/
theorem setBank_banks_of_bank (hk : bank s d = some e) : (setBank s d e).banks = s.banks := by
  refine banks_ext fun k => ?_
  rw [bank_setBank]
  split
  case isTrue hkd => rw [hkd, hk]
  case isFalse => rfl

/-- Settles O53: the union of an estimator with itself is that estimator (`union_self`). -/
theorem mergeOfABankWithItselfCopies : Obligations.MergeOfABankWithItselfCopies := by
  intro d a s hv
  obtain ⟨e, ha⟩ := (valid_iff s a).1 hv
  have hx := exec_merge ha ha rfl d
  rw [union_self] at hx
  refine ⟨_, hx, (bank_of_written s d e).trans ha.symm, fun k hk => bank_setBank_ne s d e hk, ?_⟩
  rintro rfl
  exact setBank_banks_of_bank ha

/-! ### The algebra of the union -/

/-- The source checks read both sources alike (R182), so MERGE is commutative in every state, errors included. -/
theorem exec_merge_comm (d a b : BankId) (s : State) : exec (.merge d a b) s = exec (.merge d b a) s := by
  simp only [exec, execMerge, withSources_eq]
  cases bank s a with
  | none => cases bank s b <;> rfl
  | some x =>
    cases bank s b with
    | none => rfl
    | some y =>
      by_cases hxy : x.b = y.b
      · simp [hxy, union_comm x y hxy]
      · simp [hxy, Ne.symm hxy]

theorem union_assoc (x y z : Estimator) : (x.union y).union z = x.union (y.union z) := by
  refine Estimator.ext_cells rfl fun j => ?_
  simp only [union_cell, Option.map₂_assoc cellMax_assoc]

/-- Settles O54: the laws of the union are those of the maximum, cell by cell. -/
theorem unionAlgebra : Obligations.UnionAlgebra := by
  refine ⟨exec_merge_comm, union_assoc, union_self, fun x y i v hv => ?_, fun x y => union_ok⟩
  rw [union_cell, Option.map₂_eq_some_iff] at hv
  obtain ⟨p, q, hp, hq, rfl⟩ := hv
  exact ⟨p, q, hp, hq, by simp, by simp⟩

/-! ### The union of two banks of hashes -/

theorem maxRank_append (w i : Nat) (as bs : List Imm) :
    maxRank w i (as ++ bs) = max (maxRank w i as) (maxRank w i bs) :=
  eq_of_forall_ge_iff fun n => by simp [maxRank_le_iff, or_imp, forall_and]

/-- The union of what two lists of ADDs make of one estimator is what both lists make of it (R106, R161). -/
theorem union_addAll (e : Estimator) (as bs : List Imm) : (e.addAll as).union (e.addAll bs) = e.addAll (as ++ bs) := by
  refine Estimator.ext_cells (by simp) fun j => ?_
  refine Option.map_injective (fun _ _ => BitVec.eq_of_toNat_eq) ?_
  rw [union_cell_toNat, addAll_cell, addAll_cell, addAll_cell, maxRank_append]
  cases e.regs[j]? with
  | none => rfl
  | some v => simp [max_left_comm]

theorem execList_append {is : List Instr} (hx : execList is s = some t) (js : List Instr) :
    execList (is ++ js) s = execList js t := by
  induction is generalizing s with
  | nil =>
    cases hx
    rfl
  | cons i is ih =>
    obtain ⟨u, hu, -⟩ := exec_total i s
    rw [execList_cons hu] at hx
    rw [List.cons_append, execList_cons hu, ih hx]

/-- ADDs into a valid bank, none included, change that bank alone. -/
theorem execList_adds_banks (hk : bank s d = some e) (hs : List Imm) :
    ∃ t, execList (hs.map (.add d)) s = some t ∧ bank t d = some (e.addAll hs) ∧ ∀ k, k ≠ d → bank t k = bank s k := by
  cases hs with
  | nil => exact ⟨s, rfl, hk, fun _ _ => rfl⟩
  | cons h hs => exact ⟨_, execList_adds hk h hs, bank_of_written s d _, fun k hne => bank_setBank_ne s d _ hne⟩

theorem exec_create (hm : validM m = true) (d : BankId) (s : State) :
    exec (.create d m) s = .next (setResponse 0 (setBank s d (Estimator.fresh m.toNat))) := by
  refine (execCreate_ok hm d s).trans ?_
  simp

/-- Two banks created and filled hold their own hashes each. -/
theorem execList_two_banks (hab : a ≠ b) (hm : validM m = true) (s : State) (as bs : List Imm) :
    ∃ t, execList ([.create a m, .create b m] ++ as.map (.add a) ++ bs.map (.add b)) s = some t ∧
      bank t a = some ((Estimator.fresh m.toNat).addAll as) ∧ bank t b = some ((Estimator.fresh m.toNat).addAll bs) := by
  have hcreates : execList [.create a m, .create b m] s = some _ :=
    (execList_cons (exec_create hm a s) _).trans (execList_cons (exec_create hm b _) [])
  obtain ⟨t, ht, hta, hkeep⟩ := execList_adds_banks ((bank_setBank_ne _ b _ hab).trans (bank_of_written s a _)) as
  obtain ⟨u, hu, hub, hkeep'⟩ := execList_adds_banks ((hkeep b hab.symm).trans (bank_of_written _ b _)) bs
  exact ⟨u, (execList_append ((execList_append hcreates _).trans ht) _).trans hu, (hkeep' a hab).trans hta, hub⟩

/-- Settles O55: by `union_addAll`, for the two banks start from the same empty estimator. -/
theorem mergeIsTheBankOfAllHashes : Obligations.MergeIsTheBankOfAllHashes := by
  intro d a b m s as bs hab hm
  obtain ⟨t, ht, ha, hb⟩ := execList_two_banks hab hm s as bs
  have hmerge := exec_merge ha hb (by simp) d
  rw [union_addAll] at hmerge
  refine ⟨_, _, (execList_append ht _).trans (execList_cons hmerge []), execList_create_adds hm d s (as ++ bs), ?_⟩
  rw [bank_of_written, bank_of_written]

end Sys2Proof.Machine

/-! PROOFS. The statements of 44_intersect.md: the symmetry of INTERSECT and its frame (R171), equal operands (R169), the
upper clamp that never acts (R167), and the answer itself (R166 to R168). -/

namespace Sys2Proof.Machine

variable {s : State} {i : Instr} {x y : Estimator} {a : BitVec 32} {b zacc zacc' : Nat} {regs : List RegCell}

/-! ### Symmetry and frame -/

/-- A command with no RD field changes nothing but the response, in every state (R27). -/
theorem exec_pure_of_dest_none (hd : dest i = none) (s : State) :
    ∃ t, exec i s = .next t ∧ t = { s with rspLatch := t.rspLatch } := by
  obtain ⟨t, hx, hcases⟩ := exec_total i s
  refine ⟨t, hx, ?_⟩
  cases hcases with
  | error _ ht => rw [ht, setResponse_eq]
  | answer _ _ _ ht => rw [ht, setResponse_eq]
  | write k _ hk _ => simp [hd] at hk

/-- The source checks read both sources alike (R182), so exchanging them is exchanging the arguments of the meaning. -/
theorem withSources_comm (a b : BankId) (s : State) {run run' : Estimator → Estimator → Result}
    (hrun : ∀ x y, x.b = y.b → run x y = run' y x) : withSources a b s run = withSources b a s run' := by
  rw [withSources_eq, withSources_eq]
  cases bank s a with
  | none => cases bank s b <;> rfl
  | some x =>
    cases bank s b with
    | none => rfl
    | some y =>
      by_cases hxy : x.b = y.b
      · simp [hxy, hrun x y hxy]
      · simp [hxy, Ne.symm hxy]

theorem overlap_comm (ca cb cu : Nat) : overlap ca cb cu = overlap cb ca cu := by
  rw [overlap, overlap, add_comm (ca : ℤ)]

theorem satAny_comm (sa sb su : Bool) : satAny sa sb su = satAny sb sa su := by
  rw [satAny, satAny, Bool.or_comm sa]

theorem intersection_comm (hxy : x.b = y.b) : x.intersection y = y.intersection x := by
  simp only [Estimator.intersection, union_comm x y hxy, overlap_comm x.estimate.value, satAny_comm x.estimate.sat]

/-- Settles O59: the three estimates enter the answer symmetrically (`intersection_comm`), and INTERSECT has no RD. -/
theorem intersectIsSymmetricAndPure : Obligations.IntersectIsSymmetricAndPure := fun a b s =>
  ⟨withSources_comm a b s fun x y hxy => by rw [intersection_comm hxy], exec_pure_of_dest_none rfl s⟩

/-! ### Equal operands -/

/-- The estimate of a legal estimator fits the VALUE field (R138). -/
theorem estimate_value_le (hx : x.ok = true) : x.estimate.value ≤ 2 ^ 64 - 1 :=
  Nat.le_sub_one_of_lt (estimateWith_value_lt hx _)

/-- Where the upper clamp does not act, VALUE is t with the lower clamp alone. -/
theorem clampValue_of_le {t : ℤ} (ht : t ≤ 2 ^ 64 - 1) : (clampValue t : ℤ) = max 0 t := by
  have hupper : ¬ t > (2 ^ 64 - 1 : ℕ) := by push_cast; omega
  rw [clampValue, if_neg hupper]
  split <;> omega

/-- The union of an estimator with itself is itself, so all three estimates are one (R169). -/
theorem intersection_self (hx : x.ok = true) : x.intersection x = x.estimate := by
  have hle := estimate_value_le hx
  have hvalue : (clampValue (overlap x.estimate.value x.estimate.value x.estimate.value) : ℤ) = x.estimate.value := by
    rw [overlap, add_sub_cancel_right, clampValue_of_le (by omega), max_eq_right (by omega)]
  rw [Estimator.intersection, union_self, Int.ofNat_inj.1 hvalue, satAny, Bool.or_self, Bool.or_self]

theorem exec_intersect_of_bank_eq {a b : BankId} (hs : BanksOk s) (hab : bank s a = bank s b) :
    exec (.intersect a b) s = exec (.count a) s := by
  cases ha : bank s a with
  | none => exact (withBank_none ha _).trans (withBank_none ha _).symm
  | some x =>
    refine (execIntersect_ok ha (hab ▸ ha) rfl).trans ?_
    rw [intersection_self (hs a x ha)]
    exact (execCount_ok ha).symm

/-- Settles O58: `exec_intersect_of_bank_eq`, and COUNT's response is a function of the bank (`exec_count`). -/
theorem intersectOfEqualBanksIsTheirCount : Obligations.IntersectOfEqualBanksIsTheirCount := by
  intro a b s hs hab
  have hcount := exec_intersect_of_bank_eq hs hab
  exact ⟨hcount, by rw [hcount, exec_count, exec_count, hab]⟩

/-! ### Saturation of the union -/

/-- The engine saturates exactly when the first predicate it tests holds (R125, R128). -/
theorem estimateWith_sat_iff : (estimateWith a b regs).sat = true ↔ satP a.toNat b (zAcc regs) = true := by
  rw [← (choosePath_iff _ _ _ (vCnt regs)).1]
  cases hp : choosePath a.toNat b (zAcc regs) (vCnt regs) with
  | saturate => simp [estimateWith_saturate hp]
  | linear => simp [estimateWith_linear hp]
  | large => simp [estimateWith_large hp]
  | raw => simp [estimateWith_raw hp]

/-- A smaller Z makes a greater E0 (R125). -/
theorem satP_of_le {a : Nat} (hz : zacc' ≤ zacc) (hsat : satP a b zacc = true) : satP a b zacc' = true := by
  rw [satP_iff] at *
  obtain hzero | hle := hsat
  · exact .inl (by omega)
  · refine .inr (le_trans ?_ hle)
    rw [Nat.shiftLeft_eq, Nat.shiftLeft_eq]
    gcongr

/-- Every union cell is at least the source cell, so the union's Z is no larger (R167). -/
theorem zAcc_unionCells_le {xs ys : List RegCell} (hlen : xs.length = ys.length) :
    zAcc (unionCells xs ys) ≤ zAcc xs := by
  induction xs generalizing ys with
  | nil => rfl
  | cons x xs ih =>
    cases ys with
    | nil => cases hlen
    | cons y ys =>
      have hhead : powerUnit (cellMax x y) ≤ powerUnit x := powerUnit_anti (by simp)
      simpa [unionCells] using Nat.add_le_add hhead (ih (Nat.succ_inj.1 hlen))

theorem union_sat_of_left (hx : x.ok = true) (hy : y.ok = true) (hxy : x.b = y.b) (hsat : x.estimate.sat = true) :
    (x.union y).estimate.sat = true := by
  obtain ⟨-, -, hxlen, -⟩ := (ok_iff x).1 hx
  obtain ⟨-, -, hylen, -⟩ := (ok_iff y).1 hy
  have hlen : x.regs.length = y.regs.length := by rw [hxlen, hylen, hxy]
  exact estimateWith_sat_iff.2 (satP_of_le (zAcc_unionCells_le hlen) (estimateWith_sat_iff.1 hsat))

theorem union_sat_of_source (hx : x.ok = true) (hy : y.ok = true) (hxy : x.b = y.b)
    (hsat : x.estimate.sat = true ∨ y.estimate.sat = true) : (x.union y).estimate.sat = true := by
  obtain hl | hr := hsat
  · exact union_sat_of_left hx hy hxy hl
  · rw [union_comm x y hxy]
    exact union_sat_of_left hy hx hxy.symm hr

/-! ### The upper clamp -/

/-- A saturated estimate is the greatest VALUE (R125). -/
theorem estimate_value_of_sat (hx : x.ok = true) (hsat : x.estimate.sat = true) : x.estimate.value = 2 ^ 64 - 1 :=
  (estimateStaysInItsRange _ x hx).2.1.1 hsat

theorem estimate_value_lt_of_unsat (hx : x.ok = true) (hsat : x.estimate.sat = false) : x.estimate.value < 2 ^ 38 :=
  (estimateStaysInItsRange _ x hx).1 hsat

/-- Settles O57: a saturated union takes away the greatest VALUE, which is no less than the smaller of the two counts, and
without one no source is saturated either (`union_sat_of_source`). -/
theorem upperClampNeverActs : Obligations.UpperClampNeverActs := by
  intro x y hx hy hxy
  refine ⟨union_sat_of_source hx hy hxy, fun hsat => ?_, fun hunsat => ?_⟩
  · have hcu := estimate_value_of_sat (union_ok hx hy hxy) hsat
    have hca := estimate_value_le hx
    have hcb := estimate_value_le hy
    rw [overlap]
    omega
  · obtain ⟨hsx, hsy⟩ := not_or.1 (mt (union_sat_of_source hx hy hxy) (Bool.eq_false_iff.1 hunsat))
    have hca := estimate_value_lt_of_unsat hx (Bool.eq_false_iff.2 hsx)
    have hcb := estimate_value_lt_of_unsat hy (Bool.eq_false_iff.2 hsy)
    rw [overlap]
    omega

/-! ### What INTERSECT answers -/

theorem overlap_le_cntSat (hx : x.ok = true) (hy : y.ok = true) (hxy : x.b = y.b) :
    overlap x.estimate.value y.estimate.value (x.union y).estimate.value ≤ 2 ^ 64 - 1 := by
  obtain ⟨-, hsat, hunsat⟩ := upperClampNeverActs x y hx hy hxy
  have hca := estimate_value_le hx
  have hcb := estimate_value_le hy
  cases hflag : (x.union y).estimate.sat with
  | true => have := hsat hflag; omega
  | false => have := hunsat hflag; omega

/-- VALUE is t with the lower clamp alone (R166, R167). -/
theorem intersection_value (hx : x.ok = true) (hy : y.ok = true) (hxy : x.b = y.b) :
    ((x.intersection y).value : ℤ) =
      max 0 (overlap x.estimate.value y.estimate.value (x.union y).estimate.value) :=
  clampValue_of_le (overlap_le_cntSat hx hy hxy)

/-- Settles O56: the upper clamp does not act (`intersection_value`), so VALUE fits its field and stands there whole. -/
theorem intersectAnswersInclusionExclusion : Obligations.IntersectAnswersInclusionExclusion := by
  intro a b s x y ha hb hxy hx hy
  have hvalue := intersection_value hx hy hxy
  have hlt : (x.intersection y).value < 2 ^ 64 := by
    have := overlap_le_cntSat hx hy hxy
    omega
  refine ⟨_, execIntersect_ok ha hb hxy, rfl, rspStatus_okWord _ _, rspZeros_okWord _ _, ?_, ?_⟩
  · rw [setResponse_rspLatch, rspValue_okWord, BitVec.toNat_ofNat, Nat.mod_eq_of_lt hlt, hvalue]
    simp only [overlap, Estimator.estimate, Estimator.union, unionCells, hxy]
  · rw [setResponse_rspLatch, rspSat_okWord]
    simp only [Estimator.intersection, satAny, Estimator.estimate, Estimator.union, unionCells, hxy]

end Sys2Proof.Machine

/-! PROOFS. The statements of 60_exceptions.md: the status of a command as that of the first check that fails (R182), by
which commands and exactly when each error is raised (R177 to R181), and that an error has no later effect (R184). -/

namespace Sys2Proof.Machine

variable {s t : State} {w : CommandWord} {i : Instr} {k a b : BankId} {c : BitVec 4}

/-! ### The checks, and the status of the first that fails -/

/-- The status of the validity check of bank k, and c if it is passed (R179). -/
def bankCheck (k : BankId) (s : State) (c : BitVec 4) : BitVec 4 := if valid s k = true then c else 3

/-- The status of the checks of two sources, validity before precision (R178, R179, R182). -/
def sourcesCheck (a b : BankId) (s : State) : BitVec 4 :=
  bankCheck a s (bankCheck b s (if prec s a = prec s b then 0 else 2))

/-- The status of the first of a command's checks that fails, 0 if none does (R182). -/
def checkStatus : Instr → State → BitVec 4
  | .create _ m, _ => if validM m = true then 0 else 1
  | .add d _, s => bankCheck d s 0
  | .count a, s => bankCheck a s 0
  | .merge _ a b, s => sourcesCheck a b s
  | .intersect a b, s => sourcesCheck a b s

theorem bankCheck_of_valid (hk : valid s k = true) (c : BitVec 4) : bankCheck k s c = c := if_pos hk

theorem bankCheck_of_not_valid (hk : valid s k = false) (c : BitVec 4) : bankCheck k s c = 3 := by
  simp [bankCheck, hk]

/-! ### Every command answers with that status -/

/-- The result goes on, with a response of status c. -/
def HasStatus (r : Result) (c : BitVec 4) : Prop := ∃ t, r = .next t ∧ rspStatus t.rspLatch = c

theorem respond_hasStatus (sat : Bool) (v : Value) (s : State) : HasStatus (respond sat v s) 0 :=
  ⟨_, rfl, rspStatus_okWord _ _⟩

theorem raise_hasStatus (x : CommandError) (s : State) : HasStatus (raise x s) x.code :=
  ⟨_, rfl, rspStatus_errorWord x⟩

theorem withBank_hasStatus (k : BankId) {run : Estimator → Result}
    (hrun : ∀ e, bank s k = some e → HasStatus (run e) c) : HasStatus (withBank k s run) (bankCheck k s c) := by
  cases hk : bank s k with
  | none =>
    rw [withBank_none hk, bankCheck_of_not_valid ((not_valid_iff s k).2 hk)]
    exact raise_hasStatus .notCreated s
  | some e =>
    rw [withBank_some hk, bankCheck_of_valid ((valid_iff s k).2 ⟨e, hk⟩)]
    exact hrun e hk

theorem withSources_hasStatus (a b : BankId) {run : Estimator → Estimator → Result}
    (hrun : ∀ x y, HasStatus (run x y) 0) : HasStatus (withSources a b s run) (sourcesCheck a b s) := by
  refine withBank_hasStatus a fun x ha => withBank_hasStatus b fun y hb => ?_
  by_cases hxy : x.b = y.b
  · rw [if_pos hxy, if_pos (by rw [prec_eq_of_bank ha, prec_eq_of_bank hb, hxy])]
    exact hrun x y
  · rw [if_neg hxy, if_neg (mt (b_eq_of_prec_eq ha hb) hxy)]
    exact raise_hasStatus .sizeMismatch s

theorem execCreate_hasStatus (d : BankId) (m : Imm) (s : State) :
    HasStatus (execCreate d m s) (if validM m = true then 0 else 1) := by
  unfold execCreate
  split
  · exact respond_hasStatus _ _ _
  · exact raise_hasStatus .invalidRegisterCount s

/-- The checks of R182 decide the status: what a command does once they are passed answers 0. -/
theorem exec_answers_checkStatus (i : Instr) (s : State) : Answers i s (checkStatus i s) := by
  cases i with
  | create d m => exact execCreate_hasStatus d m s
  | add d h => exact withBank_hasStatus d fun _ _ => respond_hasStatus _ _ _
  | count a => exact withBank_hasStatus a fun _ _ => respond_hasStatus _ _ _
  | merge d a b => exact withSources_hasStatus a b fun _ _ => respond_hasStatus _ _ _
  | intersect a b => exact withSources_hasStatus a b fun _ _ => respond_hasStatus _ _ _

theorem rspStatus_of_exec (hx : exec i s = .next t) : rspStatus t.rspLatch = checkStatus i s := by
  obtain ⟨u, hu, hstatus⟩ := exec_answers_checkStatus i s
  cases hx.symm.trans hu
  exact hstatus

theorem answers_iff : Answers i s c ↔ checkStatus i s = c := by
  constructor
  · rintro ⟨t, hx, rfl⟩
    exact (rspStatus_of_exec hx).symm
  · rintro rfl
    exact exec_answers_checkStatus i s

theorem rspStatus_of_execWord (hx : execWord w s = .next t) (hd : decode w = .ok i) :
    rspStatus t.rspLatch = checkStatus i s :=
  rspStatus_of_exec (by rwa [execWord_ok hd] at hx)

/-! ### What the checks can answer -/

theorem bankCheck_cases (k : BankId) (s : State) (c : BitVec 4) : bankCheck k s c = c ∨ bankCheck k s c = 3 :=
  ite_eq_or_eq _ _ _

theorem bankCheck_eq_three_iff : bankCheck k s c = 3 ↔ valid s k = false ∨ c = 3 := by
  cases hk : valid s k <;> simp [bankCheck, hk]

theorem sourcesCheck_eq_ite (a b : BankId) (s : State) :
    sourcesCheck a b s =
      if valid s a = true ∧ valid s b = true then (if prec s a = prec s b then 0 else 2) else 3 :=
  (ite_and ..).symm

theorem sourcesCheck_of_valid (ha : valid s a = true) (hb : valid s b = true) (hp : prec s a = prec s b) :
    sourcesCheck a b s = 0 := by
  rw [sourcesCheck, bankCheck_of_valid ha, bankCheck_of_valid hb, if_pos hp]

theorem sourcesCheck_eq_three_iff : sourcesCheck a b s = 3 ↔ valid s a = false ∨ valid s b = false := by
  have hprec : (if prec s a = prec s b then (0 : BitVec 4) else 2) ≠ 3 := by split <;> decide
  rw [sourcesCheck, bankCheck_eq_three_iff, bankCheck_eq_three_iff, or_iff_left hprec]

theorem valid_eq_isSome_prec (s : State) (k : BankId) : valid s k = (prec s k).isSome := by simp [valid, prec]

theorem sourcesCheck_eq_two_iff :
    sourcesCheck a b s = 2 ↔ ∃ ba bb, prec s a = some ba ∧ prec s b = some bb ∧ ba ≠ bb := by
  rw [sourcesCheck_eq_ite, valid_eq_isSome_prec, valid_eq_isSome_prec]
  cases prec s a with
  | none => simp
  | some ba =>
    cases prec s b with
    | none => simp
    | some bb => by_cases hp : ba = bb <;> simp [hp]

theorem sourcesCheck_cases (a b : BankId) (s : State) :
    sourcesCheck a b s = 0 ∨ sourcesCheck a b s = 2 ∨ sourcesCheck a b s = 3 := by
  rw [sourcesCheck_eq_ite]
  split_ifs <;> decide

/-- The statuses 1 and 2 are kept to the commands with that check, and no check answers 4 (R177, R178, R180). -/
theorem checkStatus_cases (i : Instr) (s : State) :
    checkStatus i s = 0 ∨ (checkStatus i s = 1 ∧ ∃ d m, i = .create d m) ∨
      (checkStatus i s = 2 ∧ ((∃ d a b, i = .merge d a b) ∨ ∃ a b, i = .intersect a b)) ∨ checkStatus i s = 3 := by
  cases i with
  | create d m =>
    obtain h | h : checkStatus (.create d m) s = 0 ∨ checkStatus (.create d m) s = 1 := ite_eq_or_eq _ _ _
    · exact .inl h
    · exact .inr (.inl ⟨h, d, m, rfl⟩)
  | add k _ | count k => exact (bankCheck_cases k s 0).imp_right fun h => .inr (.inr h)
  | merge d a b =>
    exact (sourcesCheck_cases a b s).imp_right fun h => .inr (h.imp_left fun h => ⟨h, .inl ⟨d, a, b, rfl⟩⟩)
  | intersect a b =>
    exact (sourcesCheck_cases a b s).imp_right fun h => .inr (h.imp_left fun h => ⟨h, .inr ⟨a, b, rfl⟩⟩)

theorem checkStatus_ne_four (i : Instr) (s : State) : checkStatus i s ≠ 4 := by
  obtain h | ⟨h, -⟩ | ⟨h, -⟩ | h := checkStatus_cases i s <;> simp [h]

theorem create_of_checkStatus_one (h : checkStatus i s = 1) : ∃ d m, i = .create d m := by
  simpa [h] using checkStatus_cases i s

theorem two_sources_of_checkStatus_two (h : checkStatus i s = 2) :
    (∃ d a b, i = .merge d a b) ∨ ∃ a b, i = .intersect a b := by
  simpa [h] using checkStatus_cases i s

/-! ### Illegal words -/

/-- The decoder accepts the legal words (R64, R65). -/
theorem legal_iff_decode_ok (w : CommandWord) : legal w = true ↔ ∃ i, decode w = .ok i := by
  simp [legal_iff_fields, decode_ok_iff, exists_or]

/-- IllegalCommand, whatever the state holds, and nothing else (R180). -/
theorem execWord_of_not_legal (hw : legal w = false) (s : State) :
    execWord w s = .next (setResponse (errorWord .illegalCommand) s) := by
  cases hd : decode w with
  | error x => exact execWord_error hd s
  | ok i =>
    rw [(legal_iff_decode_ok w).2 ⟨i, hd⟩] at hw
    cases hw

theorem not_legal_iff_no_match : legal w = false ↔ ∀ p ∈ commandPatterns, ¬ Matches w p := by
  simp [← Bool.not_eq_true, legal_iff_matches]

theorem opcode_cases (op : BitVec 4) :
    op = 1 ∨ op = 2 ∨ op = 3 ∨ op = 4 ∨ op = 5 ∨
      ((op.toNat = 0 ∨ 6 ≤ op.toNat) ∧ op ≠ 1 ∧ op ≠ 2 ∧ op ≠ 3 ∧ op ≠ 4 ∧ op ≠ 5) := by
  bv_omega

/-- The causes of R180, opcode by opcode: an unassigned opcode, RSV not zero, or a field not used that is not zero. -/
theorem not_legal_iff_causes (w : CommandWord) : legal w = false ↔
    ((opField w).toNat = 0 ∨ 6 ≤ (opField w).toNat) ∨ rsvField w ≠ 0 ∨
      ((opField w = 1 ∨ opField w = 2) ∧ (raField w ≠ 0 ∨ rbField w ≠ 0)) ∨
      (opField w = 3 ∧ (rdField w ≠ 0 ∨ rbField w ≠ 0 ∨ immField w ≠ 0)) ∨
      (opField w = 4 ∧ immField w ≠ 0) ∨
      (opField w = 5 ∧ (rdField w ≠ 0 ∨ immField w ≠ 0)) := by
  rw [← Bool.not_eq_true, legal_iff_fields]
  obtain hop | hop | hop | hop | hop | ⟨hunassigned, hne⟩ := opcode_cases (opField w)
  case inr.inr.inr.inr.inr =>
    exact iff_of_true (by simp only [hne, false_and, or_self, and_false, not_false_eq_true]) (.inl hunassigned)
  all_goals simp [hop, imp_iff_not_or]

/-! ### The statements -/

/-- Settles O4: the decoder, the table and the causes of R180 agree on the illegal words, which raise IllegalCommand before
any state is looked at, and no check of a legal word answers 4. -/
theorem illegalWordsAreRefusedInEveryState : Obligations.IllegalWordsAreRefusedInEveryState := by
  refine ⟨fun w s hw => ?_, fun w s t hw hx => ?_, fun w => ?_⟩
  · exact execWord_of_not_legal (not_legal_iff_no_match.2 hw) s
  · obtain ⟨i, hd⟩ := (legal_iff_decode_ok w).1 ((legal_iff_matches w).2 hw)
    rw [rspStatus_of_execWord hx hd]
    exact checkStatus_ne_four i s
  · rw [← not_legal_iff_no_match, not_legal_iff_causes]

/-- Settles O24: an error leaves the banks as they were (`errorsLeaveTheStateAsItWas`), and the responses to further words
depend on the banks alone (`execution_congr`). -/
theorem errorsHaveNoLaterEffect : Obligations.ErrorsHaveNoLaterEffect := by
  intro w ws s t hx hstatus
  obtain ⟨ht, -⟩ := errorsLeaveTheStateAsItWas w s t hx hstatus
  have hbanks : t.banks = s.banks := by rw [ht]
  have hreplay : replay ws t = replay ws s := congrArg Prod.fst (execution_congr hbanks ws)
  simp [replay, hx, hreplay]

/-- Settles O25: legal words by their checks (`rspStatus_of_execWord`), the others before any state is looked at. -/
theorem statusIsTheFirstFailingCheck : Obligations.StatusIsTheFirstFailingCheck := by
  intro w s t hx
  refine ⟨fun hw => ?_, fun d m hd => rspStatus_of_execWord hx hd, fun d h hd => rspStatus_of_execWord hx hd,
    fun a hd => rspStatus_of_execWord hx hd, fun d a b hd => ?_, fun a b hd => ?_⟩
  · cases hx.symm.trans (execWord_of_not_legal hw s)
    exact rspStatus_errorWord .illegalCommand
  · rw [rspStatus_of_execWord hx hd, checkStatus, sourcesCheck_eq_ite]
  · rw [rspStatus_of_execWord hx hd, checkStatus, sourcesCheck_eq_ite]

/-- Settles O26: the check of CREATE is `validM`, which accepts the powers of two of the legal precisions alone
(`validM_iff`). -/
theorem invalidRegisterCountIsRaisedExactly : Obligations.InvalidRegisterCountIsRaisedExactly := by
  refine ⟨fun d m s => ?_, fun i s t hx hstatus => ?_⟩
  · rw [answers_iff, ← validM_iff]
    simp [checkStatus]
  · exact ⟨create_of_checkStatus_one ((rspStatus_of_exec hx).symm.trans hstatus),
      fun k => exec_keeps_bank hx fun _ => by simp [hstatus]⟩

/-- Settles O28: status 2 is the last check of two sources (`sourcesCheck_eq_two_iff`), which does not read RD. -/
theorem sizeMismatchIsRaisedExactly : Obligations.SizeMismatchIsRaisedExactly := by
  refine ⟨fun d a b s => ?_, fun a b s => ?_, fun i s t hx hstatus => ⟨?_, fun k => ?_⟩⟩
  · exact answers_iff.trans sourcesCheck_eq_two_iff
  · exact answers_iff.trans sourcesCheck_eq_two_iff
  · exact two_sources_of_checkStatus_two ((rspStatus_of_exec hx).symm.trans hstatus)
  · exact exec_keeps_bank hx fun _ => by simp [hstatus]

/-- Settles O29: status 3 is the validity check of each bank the command reads; CREATE has none. -/
theorem notCreatedIsRaisedExactly : Obligations.NotCreatedIsRaisedExactly := by
  refine ⟨fun d h s => ?_, fun a s => ?_, fun d a b s => ?_, fun a b s => ?_, fun d m s => ?_, fun k => ?_⟩
  · exact answers_iff.trans (bankCheck_eq_three_iff.trans (or_iff_left (by decide)))
  · exact answers_iff.trans (bankCheck_eq_three_iff.trans (or_iff_left (by decide)))
  · exact answers_iff.trans sourcesCheck_eq_three_iff
  · exact answers_iff.trans sourcesCheck_eq_three_iff
  · rw [answers_iff, checkStatus]
    split <;> decide
  · exact (not_valid_iff _ k).2 (bank_reset k)

/-- Settles O30: every check is passed, so the status is 0, whatever the estimates and their SAT flags. -/
theorem validBanksNeverFail : Obligations.ValidBanksNeverFail :=
  ⟨fun _ _ _ hd => answers_iff.2 (bankCheck_of_valid hd 0), fun _ _ ha => answers_iff.2 (bankCheck_of_valid ha 0),
    fun _ _ _ _ ha hb hp => answers_iff.2 (sourcesCheck_of_valid ha hb hp),
    fun _ _ _ ha hb hp => answers_iff.2 (sourcesCheck_of_valid ha hb hp)⟩

end Sys2Proof.Machine

/-! PROOFS. The statements of 70_reset_and_hazards.md: what a reset edge leaves and what it drops (R200, R202 to R204),
what answers while no bank is valid (R205), and that BUSY ends and its length is not seen (R214). -/

namespace Sys2Proof.Machine

variable {s s' t : State} {i : Instr}

/-! ### The reset edge -/

section ResetEdge

variable (hr : (sample s).rst = true)
include hr

theorem acceptedAt_reset : acceptedAt s = none := by simp [acceptedAt, hr]

theorem takenAt_reset : takenAt s = none := by simp [takenAt, hr]

theorem eq_resetCore_of_step (hx : step s = .next t) : t = resetCore (passEdge s) := by
  cases hx.symm.trans (step_reset hr)
  rfl

end ResetEdge

theorem resetCore_valid (s : State) (k : BankId) : valid (resetCore s) k = false :=
  (not_valid_iff _ k).2 (resetCore_bank s k)

/-- Reset keeps nothing of the core: the environment's two lists decide all of the state it leaves (R204). -/
theorem resetCore_congr (he : s.edges = s'.edges) (hplan : s.busyPlan = s'.busyPlan) : resetCore s = resetCore s' := by
  simp [resetCore, he, hplan]

/-- A second reset edge finds nothing left to change (R202). -/
theorem resetCore_passEdge_resetCore (s : State) : resetCore (passEdge (resetCore s)) = passEdge (resetCore s) := rfl

theorem seenAlike_latches_of_idle (hp : s.phase = .idle) (c : CommandWord) (r : ResponseWord) :
    SeenAlike { s with cmdLatch := c, rspLatch := r } s :=
  ⟨rfl, rfl, rfl, rfl, by simp [hp], by simp [hp]⟩

/-- Settles O8: the edge is `resetCore`, which leaves IDLE, where neither latch is ever seen
(`latchesAreNotSeenOutsideTheirPhase`). -/
theorem resetEdgeEmptiesTheCore : Obligations.ResetEdgeEmptiesTheCore := by
  intro s hr
  refine ⟨acceptedAt_reset hr, takenAt_reset hr, _, step_reset hr, fun k => ?_, rfl, rfl, rfl, rfl, rfl, rfl,
    fun c r n => ?_⟩
  · exact ⟨resetCore_valid _ k, by simp [prec], by simp [cell]⟩
  · obtain ⟨hacc, htaken, -⟩ :=
      latchesAreNotSeenOutsideTheirPhase n _ _ (seenAlike_latches_of_idle (resetCore_phase (passEdge s)) c r)
    exact ⟨hacc, htaken⟩

/-- Settles O9: a second reset is the first again (`resetCore_passEdge_resetCore`), and the core is in IDLE, where the
first edge without reset accepts or waits (`idle_handshake`). -/
theorem holdingResetChangesNothingMore : Obligations.HoldingResetChangesNothingMore := by
  intro s t hr hx
  obtain rfl := eq_resetCore_of_step hr hx
  have hp := resetCore_phase (passEdge s)
  refine ⟨fun hr' => ?_, fun hr' hv => ⟨by simp [acceptedAt_idle hr' hp, hv], ?_⟩, fun hr' hv => ?_⟩
  · rw [step_reset hr', resetCore_passEdge_resetCore]
  · obtain ⟨-, -, haccept, -⟩ := idle_handshake hr' hp
    obtain ⟨u, hu, hbusy, hlatch, -⟩ := haccept hv
    exact ⟨u, hu, hbusy, hlatch⟩
  · obtain ⟨-, -, -, hwait⟩ := idle_handshake hr' hp
    exact hwait hv

/-- Settles O11: the two cores are in one and the same state after the edge (`resetCore_congr`). -/
theorem nothingSurvivesReset : Obligations.NothingSurvivesReset := by
  intro s s' t t' hr hr' hedges hplan hx hx'
  obtain rfl : t = t' := by
    rw [eq_resetCore_of_step hr hx, eq_resetCore_of_step hr' hx']
    exact resetCore_congr hedges hplan
  exact ⟨fun _ => rfl, rfl, fun _ => ⟨rfl, rfl⟩⟩

/-! ### Runs and replays -/

theorem stateAfter_total (n : Nat) (s : State) : ∃ t, stateAfter n s = some t := by
  induction n generalizing s with
  | zero => exact ⟨s, rfl⟩
  | succ n ih =>
    obtain ⟨u, hu, -⟩ := step_total s
    rw [stateAfter_succ hu]
    exact ih u

/-- The responses of a replay depend on the banks alone. -/
theorem replay_congr (hb : s.banks = s'.banks) (ws : List CommandWord) : replay ws s = replay ws s' :=
  congrArg Prod.fst (execution_congr hb ws)

theorem replayState_banks_congr (hb : s.banks = s'.banks) (ws : List CommandWord) :
    (replayState ws s).map State.banks = (replayState ws s').map State.banks :=
  congrArg Prod.snd (execution_congr hb ws)

/-- Settles O10: the edge leaves IDLE with the banks of the reset state, so from there on the responses taken are those
of the words accepted from there on (`handshakeDeliversTheResponsesOfExec`), replayed from the reset state. -/
theorem resetDropsTheCommandInFlight : Obligations.ResetDropsTheCommandInFlight := by
  intro s hr _
  refine ⟨takenAt_reset hr, _, step_reset hr, rfl, resetCore_valid _, fun n hn => ?_⟩
  have hbanks : (resetCore (passEdge s)).banks = State.reset.banks := rfl
  obtain ⟨t, ht⟩ := stateAfter_total n (resetCore (passEdge s))
  obtain ⟨hprefix, -⟩ := handshakeDeliversTheResponsesOfExec n _ t rfl hn ht
  rwa [replay_congr hbanks] at hprefix

/-- Settles O16: both runs deliver the responses of one and the same replay
(`handshakeDeliversTheResponsesOfExec`), which reads the banks alone. -/
theorem responsesDependOnlyOnAcceptedWords : Obligations.ResponsesDependOnlyOnAcceptedWords := by
  intro m n s s' t t' hp hp' hbanks hm hn ht ht' hwords
  obtain ⟨hprefix, -, hend⟩ := handshakeDeliversTheResponsesOfExec m s t hp hm ht
  obtain ⟨hprefix', -, hend'⟩ := handshakeDeliversTheResponsesOfExec n s' t' hp' hn ht'
  rw [hwords, replay_congr hbanks] at hprefix hend
  refine ⟨List.prefix_or_prefix_of_prefix hprefix hprefix', fun hidle hidle' => ?_⟩
  obtain ⟨hresp, u, hu, hut⟩ := hend hidle
  obtain ⟨hresp', u', hu', hut'⟩ := hend' hidle'
  have huu : u.banks = u'.banks := by
    simpa [hu, hu'] using replayState_banks_congr hbanks (acceptedWords n s')
  exact ⟨hresp.trans hresp'.symm, by rw [← hut, huu, hut']⟩

/-! ### BUSY ends -/

theorem NoReset.mono {m n : Nat} (hn : NoReset n s) (hmn : m ≤ n) : NoReset m s :=
  fun p hp => hn p ((List.take_prefix_take_left hmn).subset hp)

/-- As long as further edges of BUSY are to come, the core waits in BUSY and changes no bank (R48, R74). -/
theorem busy_waits {j : Nat} (hp : s.phase = .busy) (hj : j ≤ s.busyLeft) (hn : NoReset j s) :
    ∃ v, stateAfter j s = some v ∧ v.phase = .busy ∧ v.banks = s.banks := by
  induction j generalizing s with
  | zero => exact ⟨s, rfl, hp, rfl⟩
  | succ j ih =>
    obtain ⟨-, -, hwait, -⟩ := busy_handshake hn.sample_rst hp
    obtain ⟨t, ht, htp, -, htb, hleft⟩ := hwait (by omega)
    rw [stateAfter_succ ht, ← htb]
    exact ih htp (by omega) (hn.after_step ht)

/-- At the edge after the further ones the latched word takes effect, as if executed on the state before them all:
waiting changes neither CMD_LATCH nor a bank, and a word reads the banks alone (`execWord_alike`). -/
theorem busy_ends {n : Nat} (hp : s.phase = .busy) (hleft : s.busyLeft = n) (hn : NoReset (n + 1) s) :
    ∃ t u, stateAfter (n + 1) s = some t ∧ execWord s.cmdLatch s = .next u ∧ t.phase = .resp ∧
      t.rspLatch = u.rspLatch ∧ t.banks = u.banks := by
  induction n generalizing s with
  | zero =>
    obtain ⟨-, -, -, hfinish⟩ := busy_handshake hn.sample_rst hp
    obtain ⟨t, u, hu, ht, htp, hrsp, hbanks⟩ := hfinish hleft
    exact ⟨t, u, stateAfter_succ ht 0, hu, htp, hrsp, hbanks⟩
  | succ n ih =>
    obtain ⟨-, -, hwait, -⟩ := busy_handshake hn.sample_rst hp
    obtain ⟨v, hv, hvp, hcmd, hvb, hvleft⟩ := hwait (by omega)
    obtain ⟨t, u, ht, hu, htp, hrsp, hbanks⟩ := ih hvp (by omega) (hn.after_step hv)
    obtain ⟨u', x, hu', hx, hxb, hxr⟩ := execWord_alike hvb s.cmdLatch
    rw [hcmd, hu'] at hu
    cases hu
    exact ⟨t, x, (stateAfter_succ hv _).trans ht, hx, htp, hrsp.trans hxr, hbanks.trans hxb⟩

/-- Settles O14: `busy_waits` through the edges chosen, `busy_ends` at the next. -/
theorem busyEndsWithTheWholeEffect : Obligations.BusyEndsWithTheWholeEffect := by
  intro s hp hn
  refine ⟨fun j hj => ?_, ?_⟩
  · obtain ⟨v, hv, hvp, hvb⟩ := busy_waits hp hj (hn.mono (by omega))
    exact ⟨v, hv, hvp, hvb, by simp [rspData, rspValid, hvp]⟩
  · obtain ⟨t, u, ht, hu, htp, hrsp, hbanks⟩ := busy_ends hp rfl hn
    exact ⟨t, u, ht, hu, htp, hbanks, by simp [rspData, rspValid, htp, hrsp]⟩

/-! ### Before any CREATE -/

/-- CREATE alone checks no bank; every other command fails at the first bank it reads (R179, R205). -/
theorem checkStatus_eq_zero_iff_of_no_valid (hs : ∀ k, valid s k = false) :
    checkStatus i s = 0 ↔ ∃ d m, i = .create d m ∧ validM m = true := by
  have hcheck (k : BankId) (c : BitVec 4) : bankCheck k s c = 3 := bankCheck_of_not_valid (hs k) c
  cases i with
  | create d m => simp [checkStatus]
  | add _ _ | count _ => simp [checkStatus, hcheck]
  | merge _ _ _ | intersect _ _ => simp [checkStatus, sourcesCheck, hcheck]

/-- Settles O60: an illegal word answers 4, a command by its checks (`checkStatus_eq_zero_iff_of_no_valid`). -/
theorem beforeAnyCreateOnlyCreateSucceeds : Obligations.BeforeAnyCreateOnlyCreateSucceeds := by
  intro w s t hs hx
  cases hd : decode w with
  | error x =>
    cases hx.symm.trans (execWord_error hd s)
    simp [CommandError.code]
  | ok i =>
    rw [rspStatus_of_execWord hx hd, checkStatus_eq_zero_iff_of_no_valid hs]
    simp

end Sys2Proof.Machine

namespace Sys2Proof.Machine

/-! ### Sample words -/

/-- Settles O5: each legal word is the encoding of its command, so `decode_encode` reads that command back; an illegal word
encodes no command, and running the decoder on it names the reason. -/
theorem sampleWordsDecodeAsWritten : Obligations.SampleWordsDecodeAsWritten := by
  refine ⟨decode_encode (.create 1 2048), decode_encode (.add 0 0x12345678), decode_encode (.count 3),
    decode_encode (.merge 3 0 1), decode_encode (.intersect 0 2), ?_, ?_, ?_⟩
  · decide
  · decide
  · decide

end Sys2Proof.Machine
